-- ==== Sys2Proof/Word.lean ====
section
/-!
DEFINITION. The word types of the ALPS packet decoder. The spec treats as bits only bytes, the 12-bit operation selector
OPSEL and the 4-bit codes in it (30_encoding.md R72 to R75); every other value is an unbounded integer (00_scope.md R12).
-/

namespace Sys2Proof

/-- One byte of a packet, a signature report or a stored entry (00_scope.md R11). -/
abbrev Byte := BitVec 8

/-- A 4-bit code: family code, class code, or one field of OPSEL (30_encoding.md R72 to R75). -/
abbrev Nibble := BitVec 4

/-- The 12-bit operation selector (30_encoding.md R72). -/
abbrev Opsel := BitVec 12

/-- A 3-byte signature report, E7 or EC (30_encoding.md R70). -/
structure Sig where
  b0 : Byte
  b1 : Byte
  b2 : Byte
  deriving DecidableEq, Repr

/-- A position, a pair of integers (10_state.md R32). -/
structure Pos where
  x : Int
  y : Int
  deriving DecidableEq, Repr

end Sys2Proof
end

