-- ==== Sys2Proof/Syntax.lean ====
section
/-!
DEFINITION. The names of the block (families, packet classes, capability flags) and its operations: one constructor of
`Instr` for every row of opcode_table.json (30_encoding.md R79). OPSEL carries no operand but the class nibble of the V9
row, so the other constructors have none: their operands stand on the ports (State.opnd).
-/

namespace Sys2Proof

/-- The protocol families (30_encoding.md R73). -/
inductive Family where
  | v1 | v2 | v3 | v3r | v4 | v5 | v6 | v7 | v8 | ss4p | v9
  deriving DecidableEq, Repr

/-- The packet classes (30_encoding.md R74). -/
inductive PacketClass where
  | idle | one | two | multi | new | stick | unknown
  deriving DecidableEq, Repr

/-- A capability flag of a descriptor (10_state.md R24). A flag the spec does not name is kept and read by no rule. -/
inductive Cap where
  | tsButtons
  | dualpoint
  | buttonpad
  | other (n : Nat)
  deriving DecidableEq, Repr

/-- The operations of opcode_table.json. -/
inductive Instr where
  /-- IDENT: OPSEL 0x100 (R90). -/
  | ident
  /-- RESET: OPSEL 0x200 (R320). -/
  | reset
  /-- DEC.V1.ONE: OPSEL 0x011 (R133). -/
  | decV1One
  /-- DEC.V1.STICK: OPSEL 0x015 (R134). -/
  | decV1Stick
  /-- DEC.V2.ONE: OPSEL 0x021 (R135). -/
  | decV2One
  /-- DEC.V2.STICK: OPSEL 0x025 (R136). -/
  | decV2Stick
  /-- DEC.V3.ONE: OPSEL 0x031 (R144). -/
  | decV3One
  /-- DEC.V3.MULTI: OPSEL 0x033 (R145). -/
  | decV3Multi
  /-- DEC.V3.STICK: OPSEL 0x035 (R146). -/
  | decV3Stick
  /-- DEC.V3R.ONE: OPSEL 0x041 (R147). -/
  | decV3rOne
  /-- DEC.V3R.MULTI: OPSEL 0x043 (R148). -/
  | decV3rMulti
  /-- DEC.V3R.STICK: OPSEL 0x045 (R149). -/
  | decV3rStick
  /-- DEC.V4.ONE: OPSEL 0x051 (R152). -/
  | decV4One
  /-- DEC.V4.MULTI: OPSEL 0x053 (R153). -/
  | decV4Multi
  /-- DEC.V5.ONE: OPSEL 0x061 (R161). -/
  | decV5One
  /-- DEC.V5.MULTI: OPSEL 0x063 (R162). -/
  | decV5Multi
  /-- DEC.V6.ONE: OPSEL 0x071 (R171). -/
  | decV6One
  /-- DEC.V6.STICK: OPSEL 0x075 (R172). -/
  | decV6Stick
  /-- DEC.V7.IDLE: OPSEL 0x080 (R185). -/
  | decV7Idle
  /-- DEC.V7.TWO: OPSEL 0x082 (R186). -/
  | decV7Two
  /-- DEC.V7.MULTI: OPSEL 0x083 (R187). -/
  | decV7Multi
  /-- DEC.V7.NEW: OPSEL 0x084 (R188). -/
  | decV7New
  /-- DEC.V7.STICK: OPSEL 0x085 (R189). -/
  | decV7Stick
  /-- DEC.V7.UNKNOWN: OPSEL 0x086 (R190). -/
  | decV7Unknown
  /-- DEC.V8.IDLE: OPSEL 0x090 (R200). -/
  | decV8Idle
  /-- DEC.V8.ONE: OPSEL 0x091 (R201). -/
  | decV8One
  /-- DEC.V8.TWO: OPSEL 0x092 (R202). -/
  | decV8Two
  /-- DEC.V8.MULTI: OPSEL 0x093 (R203). -/
  | decV8Multi
  /-- DEC.V8.STICK: OPSEL 0x095 (R204). -/
  | decV8Stick
  /-- DEC.V8.UNKNOWN: OPSEL 0x096 (R205). -/
  | decV8Unknown
  /-- DEC.SS4P.IDLE: OPSEL 0x0A0 (R210). -/
  | decSs4pIdle
  /-- DEC.SS4P.ONE: OPSEL 0x0A1 (R211). -/
  | decSs4pOne
  /-- DEC.SS4P.TWO: OPSEL 0x0A2 (R212). -/
  | decSs4pTwo
  /-- DEC.SS4P.MULTI: OPSEL 0x0A3 (R213). -/
  | decSs4pMulti
  /-- DEC.SS4P.STICK: OPSEL 0x0A5 (R214). -/
  | decSs4pStick
  /-- DEC.SS4P.UNKNOWN: OPSEL 0x0A6 (R215). -/
  | decSs4pUnknown
  /-- DEC.V9.*: OPSEL 0x0B0..0x0B6, `cls` the class nibble (R178). -/
  | decV9 (cls : Nibble)
  /-- BITMAP: OPSEL 0x300 (R220). -/
  | bitmap
  /-- TRACK: OPSEL 0x400 (R240). -/
  | track
  /-- MA.FILTER: OPSEL 0x500 (R270). -/
  | maFilter
  /-- MA.RESET: OPSEL 0x501 (R271). -/
  | maReset
  /-- MA.OLDEST: OPSEL 0x502 (R272). -/
  | maOldest
  /-- MA.NEWEST: OPSEL 0x503 (R273). -/
  | maNewest
  /-- DECAY.FILTER: OPSEL 0x510 (R274). -/
  | decayFilter
  /-- DECAY.RESET: OPSEL 0x511 (R275). -/
  | decayReset
  /-- UNDECAY.FILTER: OPSEL 0x520 (R276). -/
  | undecayFilter
  /-- UNDECAY.RESET: OPSEL 0x521 (R277). -/
  | undecayReset
  deriving DecidableEq, Repr

end Sys2Proof
end

