-- ==== Sys2Proof/WellFormed.lean ====
section
/-!
DEFINITION. Which terms of `Instr` are operations of the spec: the class nibble of a V9 operation is one of the class codes
0x0..0x6 (30_encoding.md R74, R80; 41_decoders_v1_v6.md R178). No other constructor carries an operand.
-/

namespace Sys2Proof

/-- The well-formedness check of an operation. -/
def Instr.wellFormed : Instr → Bool
  | .decV9 cls => decide (cls.toNat ≤ 6)
  | .ident => true
  | .reset => true
  | .decV1One => true
  | .decV1Stick => true
  | .decV2One => true
  | .decV2Stick => true
  | .decV3One => true
  | .decV3Multi => true
  | .decV3Stick => true
  | .decV3rOne => true
  | .decV3rMulti => true
  | .decV3rStick => true
  | .decV4One => true
  | .decV4Multi => true
  | .decV5One => true
  | .decV5Multi => true
  | .decV6One => true
  | .decV6Stick => true
  | .decV7Idle => true
  | .decV7Two => true
  | .decV7Multi => true
  | .decV7New => true
  | .decV7Stick => true
  | .decV7Unknown => true
  | .decV8Idle => true
  | .decV8One => true
  | .decV8Two => true
  | .decV8Multi => true
  | .decV8Stick => true
  | .decV8Unknown => true
  | .decSs4pIdle => true
  | .decSs4pOne => true
  | .decSs4pTwo => true
  | .decSs4pMulti => true
  | .decSs4pStick => true
  | .decSs4pUnknown => true
  | .bitmap => true
  | .track => true
  | .maFilter => true
  | .maReset => true
  | .maOldest => true
  | .maNewest => true
  | .decayFilter => true
  | .decayReset => true
  | .undecayFilter => true
  | .undecayReset => true

end Sys2Proof
end

