-- ==== Sys2Proof/Decode.lean ====
section
/-!
DEFINITION. From OPSEL words to operations and back (30_encoding.md R72 to R80). The decoder is total and rejects every
reserved word by name; the encoder is written from the same code tables.
-/

namespace Sys2Proof

/-- Why a word is no operation (30_encoding.md R80). -/
inductive Reserved where
  /-- KIND 0x6..0xF. -/
  | kind
  /-- KIND 0 with family code 0x0 or 0xC..0xF. -/
  | family
  /-- KIND 0 with class code 0x7..0xF. -/
  | packetClass
  /-- KIND 0 with a (family, class) pair that R79 does not list. -/
  | pair
  /-- KIND 1..4 with A or B nonzero. -/
  | operandField
  /-- KIND 5 with A ≥ 3, B ≥ 4, or A ≠ 0 and B ≥ 2. -/
  | filterField
  /-- Not a 12-bit word at all (fewer than two bytes, or a bit above bit 11 set). -/
  | notAWord
  deriving DecidableEq, Repr

/-- The family codes (R73). -/
def Family.code : Family → Nibble
  | .v1 => 0x1 | .v2 => 0x2 | .v3 => 0x3 | .v3r => 0x4 | .v4 => 0x5 | .v5 => 0x6
  | .v6 => 0x7 | .v7 => 0x8 | .v8 => 0x9 | .ss4p => 0xA | .v9 => 0xB

/-- The family a code names; none for the reserved codes (R73). -/
def Family.ofCode (c : Nibble) : Option Family :=
  match c.toNat with
  | 0x1 => some .v1 | 0x2 => some .v2 | 0x3 => some .v3 | 0x4 => some .v3r | 0x5 => some .v4 | 0x6 => some .v5
  | 0x7 => some .v6 | 0x8 => some .v7 | 0x9 => some .v8 | 0xA => some .ss4p | 0xB => some .v9
  | _ => none

/-- The class codes (R74). -/
def PacketClass.code : PacketClass → Nibble
  | .idle => 0 | .one => 1 | .two => 2 | .multi => 3 | .new => 4 | .stick => 5 | .unknown => 6

/-- The class a code names; none for the reserved codes (R74). -/
def PacketClass.ofCode (c : Nibble) : Option PacketClass :=
  match c.toNat with
  | 0 => some .idle | 1 => some .one | 2 => some .two | 3 => some .multi | 4 => some .new | 5 => some .stick
  | 6 => some .unknown
  | _ => none

/-- OPSEL = KIND[11:8], A[7:4], B[3:0] (R72). -/
def mkOpsel (kind a b : Nibble) : Opsel := kind ++ a ++ b

/-- The field KIND of a word (R72). -/
def opselKind (w : Opsel) : Nibble := w.extractLsb' 8 4

/-- The field A of a word (R72). -/
def opselA (w : Opsel) : Nibble := w.extractLsb' 4 4

/-- The field B of a word (R72). -/
def opselB (w : Opsel) : Nibble := w.extractLsb' 0 4

/-- The word of a packet operation: KIND 0, A the family, B the class (R72, R95 step 7). -/
def packetOpsel (fam : Family) (cls : Nibble) : Opsel := mkOpsel 0 fam.code cls

/-- The packet operation of a (family, class) pair; none for a pair R79 does not list. V9 takes any class (R178). -/
def packetInstr : Family → PacketClass → Option Instr
  | .v1, .one => some .decV1One
  | .v1, .stick => some .decV1Stick
  | .v1, _ => none
  | .v2, .one => some .decV2One
  | .v2, .stick => some .decV2Stick
  | .v2, _ => none
  | .v3, .one => some .decV3One
  | .v3, .multi => some .decV3Multi
  | .v3, .stick => some .decV3Stick
  | .v3, _ => none
  | .v3r, .one => some .decV3rOne
  | .v3r, .multi => some .decV3rMulti
  | .v3r, .stick => some .decV3rStick
  | .v3r, _ => none
  | .v4, .one => some .decV4One
  | .v4, .multi => some .decV4Multi
  | .v4, _ => none
  | .v5, .one => some .decV5One
  | .v5, .multi => some .decV5Multi
  | .v5, _ => none
  | .v6, .one => some .decV6One
  | .v6, .stick => some .decV6Stick
  | .v6, _ => none
  | .v7, .idle => some .decV7Idle
  | .v7, .two => some .decV7Two
  | .v7, .multi => some .decV7Multi
  | .v7, .new => some .decV7New
  | .v7, .stick => some .decV7Stick
  | .v7, .unknown => some .decV7Unknown
  | .v7, _ => none
  | .v8, .idle => some .decV8Idle
  | .v8, .one => some .decV8One
  | .v8, .two => some .decV8Two
  | .v8, .multi => some .decV8Multi
  | .v8, .stick => some .decV8Stick
  | .v8, .unknown => some .decV8Unknown
  | .v8, _ => none
  | .ss4p, .idle => some .decSs4pIdle
  | .ss4p, .one => some .decSs4pOne
  | .ss4p, .two => some .decSs4pTwo
  | .ss4p, .multi => some .decSs4pMulti
  | .ss4p, .stick => some .decSs4pStick
  | .ss4p, .unknown => some .decSs4pUnknown
  | .ss4p, _ => none
  | .v9, c => some (.decV9 c.code)

/-- The operation a word selects (R79), or why it is reserved (R80). -/
def decodeOpsel (w : Opsel) : Except Reserved Instr :=
  let a := opselA w
  let b := opselB w
  match (opselKind w).toNat with
  | 0 =>
    match Family.ofCode a with
    | none => .error .family
    | some f =>
      match PacketClass.ofCode b with
      | none => .error .packetClass
      | some c =>
        match packetInstr f c with
        | none => .error .pair
        | some i => .ok i
  | 1 => if a = 0 ∧ b = 0 then .ok .ident else .error .operandField
  | 2 => if a = 0 ∧ b = 0 then .ok .reset else .error .operandField
  | 3 => if a = 0 ∧ b = 0 then .ok .bitmap else .error .operandField
  | 4 => if a = 0 ∧ b = 0 then .ok .track else .error .operandField
  | 5 =>
    match a.toNat, b.toNat with
    | 0, 0 => .ok .maFilter
    | 0, 1 => .ok .maReset
    | 0, 2 => .ok .maOldest
    | 0, 3 => .ok .maNewest
    | 1, 0 => .ok .decayFilter
    | 1, 1 => .ok .decayReset
    | 2, 0 => .ok .undecayFilter
    | 2, 1 => .ok .undecayReset
    | _, _ => .error .filterField
  | _ => .error .kind

/-- The decoder on bytes: the word's low byte first, bits 15..12 of the second byte clear. The block never stores OPSEL
(R72); the byte order is the opcode table's numbering. DESIGN CHOICE, assumption 20. -/
def decodeBytes : List Byte → Except Reserved Instr
  | lo :: hi :: _ => if hi.toNat < 16 then decodeOpsel (mkOpsel (hi.setWidth 4) ((lo >>> 4).setWidth 4) (lo.setWidth 4)) else .error .notAWord
  | _ => .error .notAWord

/-- The word of an operation (R75, R79). -/
def encode : Instr → Opsel
  | .ident => mkOpsel 0x1 0x0 0x0
  | .reset => mkOpsel 0x2 0x0 0x0
  | .decV1One => packetOpsel .v1 PacketClass.one.code
  | .decV1Stick => packetOpsel .v1 PacketClass.stick.code
  | .decV2One => packetOpsel .v2 PacketClass.one.code
  | .decV2Stick => packetOpsel .v2 PacketClass.stick.code
  | .decV3One => packetOpsel .v3 PacketClass.one.code
  | .decV3Multi => packetOpsel .v3 PacketClass.multi.code
  | .decV3Stick => packetOpsel .v3 PacketClass.stick.code
  | .decV3rOne => packetOpsel .v3r PacketClass.one.code
  | .decV3rMulti => packetOpsel .v3r PacketClass.multi.code
  | .decV3rStick => packetOpsel .v3r PacketClass.stick.code
  | .decV4One => packetOpsel .v4 PacketClass.one.code
  | .decV4Multi => packetOpsel .v4 PacketClass.multi.code
  | .decV5One => packetOpsel .v5 PacketClass.one.code
  | .decV5Multi => packetOpsel .v5 PacketClass.multi.code
  | .decV6One => packetOpsel .v6 PacketClass.one.code
  | .decV6Stick => packetOpsel .v6 PacketClass.stick.code
  | .decV7Idle => packetOpsel .v7 PacketClass.idle.code
  | .decV7Two => packetOpsel .v7 PacketClass.two.code
  | .decV7Multi => packetOpsel .v7 PacketClass.multi.code
  | .decV7New => packetOpsel .v7 PacketClass.new.code
  | .decV7Stick => packetOpsel .v7 PacketClass.stick.code
  | .decV7Unknown => packetOpsel .v7 PacketClass.unknown.code
  | .decV8Idle => packetOpsel .v8 PacketClass.idle.code
  | .decV8One => packetOpsel .v8 PacketClass.one.code
  | .decV8Two => packetOpsel .v8 PacketClass.two.code
  | .decV8Multi => packetOpsel .v8 PacketClass.multi.code
  | .decV8Stick => packetOpsel .v8 PacketClass.stick.code
  | .decV8Unknown => packetOpsel .v8 PacketClass.unknown.code
  | .decSs4pIdle => packetOpsel .ss4p PacketClass.idle.code
  | .decSs4pOne => packetOpsel .ss4p PacketClass.one.code
  | .decSs4pTwo => packetOpsel .ss4p PacketClass.two.code
  | .decSs4pMulti => packetOpsel .ss4p PacketClass.multi.code
  | .decSs4pStick => packetOpsel .ss4p PacketClass.stick.code
  | .decSs4pUnknown => packetOpsel .ss4p PacketClass.unknown.code
  | .decV9 cls => packetOpsel .v9 cls
  | .bitmap => mkOpsel 0x3 0x0 0x0
  | .track => mkOpsel 0x4 0x0 0x0
  | .maFilter => mkOpsel 0x5 0x0 0x0
  | .maReset => mkOpsel 0x5 0x0 0x1
  | .maOldest => mkOpsel 0x5 0x0 0x2
  | .maNewest => mkOpsel 0x5 0x0 0x3
  | .decayFilter => mkOpsel 0x5 0x1 0x0
  | .decayReset => mkOpsel 0x5 0x1 0x1
  | .undecayFilter => mkOpsel 0x5 0x2 0x0
  | .undecayReset => mkOpsel 0x5 0x2 0x1

/-- The two bytes of an operation's word, low byte first (assumption 20). -/
def encodeBytes (i : Instr) : List Byte := [(encode i).setWidth 8, (encode i >>> 8).setWidth 8]

/-- The operation the decoder reads from an instruction whose bits are `w`, numbered as opcode_table.json numbers them.
Only the first two bytes carry a word; the operands stand on the ports, so a longer `nbits` adds nothing. -/
def decodeTableWord (nbits w : Nat) : Option Instr :=
  let v := w % 2 ^ nbits
  match decodeBytes [BitVec.ofNat 8 v, BitVec.ofNat 8 (v / 2 ^ 8)] with
  | .ok i => if v < 2 ^ 16 then some i else none
  | .error _ => none

end Sys2Proof
end

