-- ==== Sys2Proof/Config.lean ====
section
/-!
DEFINITION. The configuration record CFG of a block instance (00_scope.md R9), as plain data: fixed at instance creation and
written by no transaction (70_reset_and_hazards.md R325). The packet layouts and classifiers are parameters too (R5, R9), so
they are data here: term lists (R13), byte tests and constants. The values the spec gives for reference stand in
Machine/Reference.lean.
-/

namespace Sys2Proof

/-- MAX_TOUCHES, fixed by the source (00_scope.md R10). -/
abbrev maxTouches : Nat := 5

/-- PKT_MAX, the width of the packet port in bytes (00_scope.md R9; 93 P14: fixed by the spec). -/
abbrev pktMax : Nat := 8

/-- MP_CAP, the capacity of the multi-packet buffer in packets (00_scope.md R9; 93 P14: fixed by the spec). -/
abbrev mpCap : Nat := 3

/-- A layout term (k, m, s): byte index, mask, signed shift (00_scope.md R13). -/
structure Term where
  k : Nat
  m : Byte
  s : Int
  deriving DecidableEq, Repr

/-- The terms of one layout field (00_scope.md R13). -/
abbrev Terms := List Term

/-- The test (p[k] & m) = v, or ≠ v where `eq` is false. -/
structure ByteTest where
  k : Nat
  m : Byte
  v : Byte
  eq : Bool := true
  deriving DecidableEq, Repr

/-- One line of a classifier: if the device has all of `caps` and the packet passes all of `tests`, the class is `cls`. -/
structure ClassRule where
  caps : List Cap
  tests : List ByteTest
  cls : Nibble
  deriving DecidableEq, Repr

/-- CLASSIFY[fam] (40_dispatch.md R98): the first line that holds decides, else the class `otherwise`. Every total function of
the packet's bytes and the capability set can be written so. -/
structure Classifier where
  rules : List ClassRule
  otherwise : Nibble
  deriving DecidableEq, Repr

/-- One value for each family. -/
structure FamTable (α : Type) where
  v1 : α
  v2 : α
  v3 : α
  v3r : α
  v4 : α
  v5 : α
  v6 : α
  v7 : α
  v8 : α
  ss4p : α
  v9 : α
  deriving DecidableEq, Repr

/-- The value for a family. -/
def FamTable.get {α : Type} (t : FamTable α) : Family → α
  | .v1 => t.v1 | .v2 => t.v2 | .v3 => t.v3 | .v3r => t.v3r | .v4 => t.v4 | .v5 => t.v5
  | .v6 => t.v6 | .v7 => t.v7 | .v8 => t.v8 | .ss4p => t.ss4p | .v9 => t.v9

/-- The layout of a trackstick packet: signed 8-bit deltas x and y divided by `xDiv` and `yDiv`, pressure z, buttons; a packet
that passes all tests of one list of `reject` is dropped; a packet whose x, y, z equal `lift` reads as no motion. The rules give
division in V3, V3R and V6 only (30_encoding.md R83), `reject` in V3 and V3R only, `lift` in V6 only; in the other families the
reference layouts hold 1, none and none. That a configured layout of any of them may hold others is the model's generalisation
(assumption 4, unsafe). -/
structure StickLayout where
  x : Terms
  y : Terms
  z : Terms
  xDiv : Int
  yDiv : Int
  left : Terms
  right : Terms
  middle : Terms
  reject : List (List ByteTest)
  lift : Option (Nat × Nat × Nat)
  deriving DecidableEq, Repr

/-- The six button fields of the "V3 button layout" (41_decoders_v1_v6.md R142). -/
structure ButtonLayout where
  left : Terms
  right : Terms
  middle : Terms
  tsLeft : Terms
  tsRight : Terms
  tsMiddle : Terms
  deriving DecidableEq, Repr

/-- LAYOUT[V1] and LAYOUT[V2] (41_decoders_v1_v6.md R132 to R136). -/
structure AbsLayout where
  x : Terms
  y : Terms
  z : Terms
  left : Terms
  right : Terms
  middle : Terms
  ges : Terms
  fin : Terms
  /-- The values (ges, fin) at which the pressure is `tapZ` instead of the packet's (R133; 93 G14). -/
  tapWhen : List (Bool × Bool)
  tapZ : Nat
  /-- The values (ges, fin, prev_fin) that are a tap-drag edge (R133; 93 G15). -/
  tapDrag : List (Bool × Bool × Bool)
  /-- The pressure of a trackstick packet (R134). -/
  stickZ : Terms
  /-- Stick x above `dxAbove` is `dxSpan` less, stick y above `dyAbove` is `dySpan` less (R134). -/
  dxAbove : Nat
  dxSpan : Nat
  dyAbove : Nat
  dySpan : Nat
  deriving DecidableEq, Repr

/-- LAYOUT[V3] and LAYOUT[V3R] (41_decoders_v1_v6.md R142, R143, R146). The finger count is the greatest of the fields
`fingers` plus `fingersAdd`. -/
structure PinnacleLayout where
  firstMp : Terms
  stX : Terms
  stY : Terms
  pressure : Terms
  buttons : ButtonLayout
  fingers : List Terms
  fingersAdd : Nat
  xMap : Terms
  yMap : Terms
  stick : StickLayout
  deriving DecidableEq, Repr

/-- LAYOUT[V4] (41_decoders_v1_v6.md R151, R154). `mapBytes` are the bytes of each packet that carry the group's bitmap; the
terms of `xMap` and `yMap` index the bytes so collected, those of three packets. -/
structure V4Layout where
  left : Terms
  right : Terms
  stX : Terms
  stY : Terms
  pressure : Terms
  mapBytes : List Nat
  xMap : Terms
  yMap : Terms
  deriving DecidableEq, Repr

/-- LAYOUT[V5] (41_decoders_v1_v6.md R160). A packet that passes `noTouch` has pressure 0. -/
structure DolphinLayout where
  firstMp : Terms
  stX : Terms
  stY : Terms
  pressure : Terms
  noTouch : List ByteTest
  buttons : ButtonLayout
  fingers : Terms
  palm : Terms
  deriving DecidableEq, Repr

/-- LAYOUT[V6] (41_decoders_v1_v6.md R170, R172). -/
structure V6Layout where
  x : Terms
  y : Terms
  z : Terms
  left : Terms
  right : Terms
  stick : StickLayout
  deriving DecidableEq, Repr

/-- Which positions of a V7 packet `npos` counts (42_decoders_v7_ss4.md R183; 93 G40; assumption 4). -/
inductive PosCount where
  /-- Those that are not (0, 0): NZ. -/
  | nonzero
  /-- Both, present or not. -/
  | both
  deriving DecidableEq, Repr

/-- LAYOUT[V7] (42_decoders_v7_ss4.md R182, R183, R186, R187, R189). -/
structure V7Layout where
  m0x : Terms
  m0y : Terms
  m1x : Terms
  m1y : Terms
  /-- TWO: bits cleared in m1.x, bits set in m1.y, and the false touch. -/
  twoXClear : Nat
  twoYSet : Nat
  falseX : Nat
  falseY : Nat
  /-- MULTI: bits cleared in m1.x and m1.y, terms and bits then set in m1.y. -/
  multiXClear : Nat
  multiYClear : Nat
  multiYTerms : Terms
  multiYSet : Nat
  /-- The top of the inverted y axis. -/
  yTop : Nat
  left : Terms
  right : Terms
  middle : Terms
  /-- The two bits that count resting fingers on a BUTTONPAD device. -/
  padFingerA : Terms
  padFingerB : Terms
  fingersBase : Nat
  fingersMore : Terms
  /-- The pressure of a TWO or MULTI packet: no terms, so 0, in the reference layout (R186; 93 G41). -/
  pressure : Terms
  npos : PosCount
  stick : StickLayout
  deriving DecidableEq, Repr

/-- LAYOUT[V8] and LAYOUT[SS4P] (42_decoders_v7_ss4.md R197 to R204). The `btl` terms and `pad` constants are those of a
BUTTONPAD device. -/
structure SS4Layout where
  oneX : Terms
  oneY : Terms
  oneZ : Terms
  oneZMul : Nat
  oneZMask : Nat
  stdX0 : Terms
  stdX1 : Terms
  btlX0 : Terms
  btlX1 : Terms
  stdY0 : Terms
  stdY1 : Terms
  btlY0 : Terms
  btlY1 : Terms
  /-- MF_Z(0) and MF_Z(1) (R197); no operation reads the second. -/
  mfZ0 : Terms
  mfZ1 : Terms
  twoPressure : Nat
  cont : Terms
  left : Terms
  right : Terms
  middle : Terms
  noX : Nat
  noY : Nat
  padNoX : Nat
  padNoY : Nat
  stick : StickLayout
  deriving DecidableEq, Repr

/-- LAYOUT[fam] for every family. That of V9 is OPEN (92 D56) and read by no rule: the term lists of its fields. -/
structure Layouts where
  v1 : AbsLayout
  v2 : AbsLayout
  v3 : PinnacleLayout
  v3r : PinnacleLayout
  v4 : V4Layout
  v5 : DolphinLayout
  v6 : V6Layout
  v7 : V7Layout
  v8 : SS4Layout
  ss4p : SS4Layout
  v9 : List Terms
  deriving DecidableEq, Repr

/-- A header pattern of byte 0: `p[0] & mask0 = byte0` (30_encoding.md R77, R78). -/
structure Byte0 where
  byte0 : Byte
  mask0 : Byte
  deriving DecidableEq, Repr

/-- One entry of REGISTRY (20_memory.md R53; 40_dispatch.md R90): a signature and a descriptor, whose family tag is a raw
4-bit code (a reserved one is a configuration error, R80). -/
structure RegEntry where
  sig : Sig
  tag : Nibble
  byte0 : Byte
  mask0 : Byte
  caps : List Cap
  deriving DecidableEq, Repr

/-- Sensor geometry: bounds (read by no rule, 92 D50) and electrode counts (00_scope.md R9). -/
structure Geometry where
  xMin : Int
  xMax : Int
  yMin : Int
  yMax : Int
  xBits : Nat
  yBits : Nat
  deriving DecidableEq, Repr

/-- Per-electrode pitch, coordinate offset and axis reversal of a family (00_scope.md R9; 43_bitmap.md R231: "a configuration
sets them per family"). -/
structure Scale where
  pitchX : Int
  pitchY : Int
  offsetX : Int
  offsetY : Int
  revX : Bool
  revY : Bool
  deriving DecidableEq, Repr

/-- DIST_METRIC (44_tracker.md R243). -/
inductive Metric where
  | squaredEuclidean
  | manhattan
  deriving DecidableEq, Repr

/-- SMOOTH_KIND (44_tracker.md R240). -/
inductive SmoothKind where
  | movingAverage
  | decay
  deriving DecidableEq, Repr

/-- IDLE_REPORT (40_dispatch.md R102). -/
inductive IdleReport where
  | suppress
  | emit
  deriving DecidableEq, Repr

/-- The pairing orientation of the Bitmap Decoder (43_bitmap.md R225). -/
inductive Orient where
  | direct
  | crossed
  deriving DecidableEq, Repr

/-- The configuration record (00_scope.md R9). `matchMaxDist` none is "unbounded"; `quirks` is read by no rule (R30). -/
structure Cfg where
  registry : List RegEntry
  pktLen : FamTable Nat
  classify : FamTable Classifier
  layouts : Layouts
  geom : Geometry
  scale : FamTable Scale
  quirks : List Nat
  maWindow : Nat
  decayN1 : Int
  decayN2 : Int
  decayD : Int
  hyst : Nat
  metric : Metric
  matchMaxDist : Option Nat
  smooth : SmoothKind
  idleReport : IdleReport
  initOrient : Orient
  deriving DecidableEq, Repr

end Sys2Proof
end

