-- ==== Sys2Proof/Machine/Reference.lean ====
section
/-!
DEFINITION. The reference values of the configuration: layouts and classifiers (41_decoders_v1_v6.md, 42_decoders_v7_ss4.md),
packet lengths and byte-0 patterns (30_encoding.md R76, R78), the defaults of 00_scope.md R9, and for the OPEN parameters the
reference configuration of 95_test_vectors.md section 0. PRESUMED: the spec marks every layout value "from general knowledge,
not in source" (assumptions 2, 3 and 4).
-/

namespace Sys2Proof.Reference

/-- R132, R133, R134. -/
def v1 : AbsLayout where
  x := [⟨1, 0xFF, 0⟩, ⟨0, 0x07, 7⟩]
  y := [⟨4, 0xFF, 0⟩, ⟨3, 0x07, 7⟩]
  z := [⟨5, 0xFF, 0⟩]
  left := [⟨2, 0x10, -4⟩]
  right := [⟨2, 0x08, -3⟩]
  middle := []
  ges := [⟨2, 0x01, 0⟩]
  fin := [⟨2, 0x02, -1⟩]
  tapWhen := [(true, false)]
  tapZ := 40
  tapDrag := [(true, true, false)]
  stickZ := []
  dxAbove := 383
  dxSpan := 768
  dyAbove := 255
  dySpan := 512

/-- R132, R135, R136. -/
def v2 : AbsLayout where
  x := [⟨1, 0xFF, 0⟩, ⟨2, 0x78, 4⟩]
  y := [⟨4, 0xFF, 0⟩, ⟨3, 0x70, 3⟩]
  z := [⟨5, 0xFF, 0⟩]
  left := [⟨3, 0x01, 0⟩]
  right := [⟨3, 0x02, -1⟩]
  middle := [⟨3, 0x04, -2⟩]
  ges := [⟨2, 0x01, 0⟩]
  fin := [⟨2, 0x02, -1⟩]
  tapWhen := [(true, false)]
  tapZ := 40
  tapDrag := [(true, true, false)]
  stickZ := []
  dxAbove := 383
  dxSpan := 768
  dyAbove := 255
  dySpan := 512

/-- The six button terms of R142. -/
def v3Buttons : ButtonLayout where
  left := [⟨3, 0x01, 0⟩]
  right := [⟨3, 0x02, -1⟩]
  middle := [⟨3, 0x04, -2⟩]
  tsLeft := [⟨3, 0x10, -4⟩]
  tsRight := [⟨3, 0x20, -5⟩]
  tsMiddle := [⟨3, 0x40, -6⟩]

/-- R146: a packet with p[0][6] = 0 and the end-of-stream marker are rejected. -/
def v3Stick : StickLayout where
  x := [⟨0, 0x20, 2⟩, ⟨1, 0x7F, 0⟩]
  y := [⟨0, 0x10, 3⟩, ⟨2, 0x7F, 0⟩]
  z := [⟨4, 0x7F, 0⟩]
  xDiv := 8
  yDiv := 8
  left := [⟨3, 0x01, 0⟩]
  right := [⟨3, 0x02, -1⟩]
  middle := [⟨3, 0x04, -2⟩]
  reject := [[⟨0, 0x40, 0x00, true⟩], [⟨1, 0xFF, 0x7F, true⟩, ⟨2, 0xFF, 0x7F, true⟩, ⟨4, 0xFF, 0x7F, true⟩]]
  lift := none

/-- R142, R146. -/
def v3 : PinnacleLayout where
  firstMp := [⟨4, 0x40, -6⟩]
  stX := [⟨1, 0x7F, 4⟩, ⟨4, 0x30, -2⟩, ⟨0, 0x30, -4⟩]
  stY := [⟨2, 0x7F, 4⟩, ⟨4, 0x0F, 0⟩]
  pressure := [⟨5, 0x7F, 0⟩]
  buttons := v3Buttons
  fingers := [[⟨5, 0x03, 0⟩]]
  fingersAdd := 1
  xMap := [⟨4, 0x7E, 8⟩, ⟨1, 0x7F, 2⟩, ⟨0, 0x30, -4⟩]
  yMap := [⟨3, 0x70, 4⟩, ⟨2, 0x7F, 1⟩, ⟨4, 0x01, 0⟩]
  stick := v3Stick

/-- R143, R148, R149. -/
def v3r : PinnacleLayout where
  firstMp := [⟨4, 0x40, -6⟩]
  stX := [⟨1, 0x7F, 4⟩, ⟨4, 0x30, -2⟩, ⟨0, 0x30, -4⟩]
  stY := [⟨2, 0x7F, 4⟩, ⟨4, 0x0F, 0⟩]
  pressure := [⟨5, 0x7F, 0⟩]
  buttons := v3Buttons
  fingers := [[⟨5, 0x03, 0⟩], [⟨5, 0x0C, -2⟩]]
  fingersAdd := 1
  xMap := [⟨4, 0x7E, 8⟩, ⟨1, 0x7F, 2⟩, ⟨0, 0x30, -4⟩, ⟨5, 0x10, 11⟩]
  yMap := [⟨3, 0x70, 4⟩, ⟨2, 0x7F, 1⟩, ⟨4, 0x01, 0⟩, ⟨5, 0x20, 6⟩]
  stick := v3Stick

/-- R151, R154. -/
def v4 : V4Layout where
  left := [⟨4, 0x01, 0⟩]
  right := [⟨4, 0x02, -1⟩]
  stX := [⟨1, 0x7F, 4⟩, ⟨3, 0x30, -2⟩, ⟨0, 0x30, -4⟩]
  stY := [⟨2, 0x7F, 4⟩, ⟨3, 0x0F, 0⟩]
  pressure := [⟨5, 0x7F, 0⟩]
  mapBytes := [6, 7]
  xMap := [⟨2, 0x1F, 10⟩, ⟨3, 0x60, 3⟩, ⟨0, 0x3F, 2⟩, ⟨1, 0x60, -5⟩]
  yMap := [⟨5, 0x01, 10⟩, ⟨3, 0x1F, 5⟩, ⟨1, 0x1F, 0⟩]

/-- R160. -/
def v5 : DolphinLayout where
  firstMp := [⟨0, 0x02, -1⟩]
  stX := [⟨1, 0x7F, 0⟩, ⟨4, 0x0F, 7⟩]
  stY := [⟨2, 0x7F, 0⟩, ⟨4, 0xF0, 3⟩]
  pressure := [⟨5, 0x7F, 0⟩]
  noTouch := [⟨0, 0x04, 0x04, true⟩]
  buttons := v3Buttons
  fingers := [⟨0, 0x06, -1⟩, ⟨0, 0x10, -2⟩]
  palm := [⟨1, 0x7F, 0⟩, ⟨2, 0x7F, 7⟩, ⟨4, 0x7F, 14⟩, ⟨5, 0x7F, 21⟩, ⟨3, 0x07, 28⟩, ⟨3, 0x70, 27⟩, ⟨0, 0x01, 34⟩]

/-- R170, R172: the marker (0x7F, 0x7F, 0x7F) is the lift. -/
def v6 : V6Layout where
  x := [⟨1, 0xFF, 0⟩, ⟨3, 0x78, 4⟩]
  y := [⟨2, 0xFF, 0⟩, ⟨4, 0x78, 4⟩]
  z := [⟨5, 0xFF, 0⟩]
  left := [⟨3, 0x01, 0⟩]
  right := [⟨3, 0x02, -1⟩]
  stick :=
    { x := [⟨1, 0xFF, 0⟩, ⟨3, 0x20, 2⟩]
      y := [⟨2, 0xFF, 0⟩, ⟨3, 0x40, 1⟩]
      z := [⟨4, 0xFF, 0⟩]
      xDiv := 4
      yDiv := 4
      left := [⟨3, 0x01, 0⟩]
      right := [⟨3, 0x02, -1⟩]
      middle := [⟨3, 0x04, -2⟩]
      reject := []
      lift := some (0x7F, 0x7F, 0x7F) }

/-- R182, R183, R187, R189. -/
def v7 : V7Layout where
  m0x := [⟨2, 0x80, 4⟩, ⟨2, 0x3F, 5⟩, ⟨3, 0x30, -1⟩, ⟨3, 0x07, 0⟩]
  m0y := [⟨1, 0xFF, 3⟩, ⟨0, 0x07, 0⟩]
  m1x := [⟨3, 0x80, 4⟩, ⟨4, 0x80, 3⟩, ⟨4, 0x3F, 4⟩]
  m1y := [⟨5, 0x80, 3⟩, ⟨5, 0x3F, 4⟩]
  twoXClear := 0x00F
  twoYSet := 0x00F
  falseX := 0xFF0
  falseY := 0x7FF
  multiXClear := 0x03F
  multiYClear := 0x020
  multiYTerms := [⟨4, 0x02, 4⟩]
  multiYSet := 0x01F
  yTop := 0x7FF
  left := [⟨0, 0x80, -7⟩]
  right := [⟨0, 0x20, -5⟩]
  middle := [⟨0, 0x10, -4⟩]
  padFingerA := [⟨0, 0x20, -5⟩]
  padFingerB := [⟨0, 0x10, -4⟩]
  fingersBase := 3
  fingersMore := [⟨5, 0x03, 0⟩]
  pressure := []
  npos := .nonzero
  stick :=
    { x := [⟨2, 0xBF, 0⟩, ⟨3, 0x10, 2⟩]
      y := [⟨3, 0x07, 0⟩, ⟨4, 0xB8, 0⟩, ⟨3, 0x20, 1⟩]
      z := [⟨5, 0x3F, 0⟩, ⟨3, 0x80, -1⟩]
      xDiv := 1
      yDiv := 1
      left := [⟨1, 0x01, 0⟩]
      right := [⟨1, 0x02, -1⟩]
      middle := [⟨1, 0x04, -2⟩]
      reject := []
      lift := none }

/-- The stick terms of R204 and the button bits of R199. -/
def ss4Stick : StickLayout where
  x := [⟨0, 0x01, 7⟩, ⟨1, 0x7F, 0⟩]
  y := [⟨3, 0x01, 7⟩, ⟨2, 0x7F, 0⟩]
  z := [⟨4, 0x7F, 0⟩]
  xDiv := 1
  yDiv := 1
  left := [⟨0, 0x20, -5⟩]
  right := [⟨0, 0x40, -6⟩]
  middle := [⟨0, 0x80, -7⟩]
  reject := []
  lift := none

/-- R197 to R204. -/
def v8 : SS4Layout where
  oneX := [⟨0, 0x07, 0⟩, ⟨1, 0x0F, 3⟩, ⟨1, 0xE0, 2⟩, ⟨2, 0xE0, 5⟩]
  oneY := [⟨2, 0x0F, 0⟩, ⟨3, 0xC0, -2⟩, ⟨4, 0x0F, 6⟩, ⟨4, 0x60, 5⟩]
  oneZ := [⟨5, 0x0F, 0⟩, ⟨5, 0xE0, -1⟩, ⟨4, 0x80, 0⟩]
  oneZMul := 2
  oneZMask := 0x7F
  stdX0 := [⟨0, 0x07, 5⟩, ⟨1, 0xF8, 5⟩]
  stdX1 := [⟨3, 0x07, 5⟩, ⟨4, 0xF8, 5⟩]
  btlX0 := [⟨0, 0x07, 5⟩, ⟨1, 0xF8, 5⟩, ⟨0, 0x80, -3⟩]
  btlX1 := [⟨3, 0x07, 5⟩, ⟨4, 0xF8, 5⟩, ⟨3, 0x80, -3⟩]
  stdY0 := [⟨1, 0x02, 3⟩, ⟨2, 0x0F, 5⟩, ⟨2, 0xE0, 4⟩]
  stdY1 := [⟨4, 0x02, 3⟩, ⟨5, 0x0F, 5⟩, ⟨5, 0xE0, 4⟩]
  btlY0 := [⟨1, 0x02, 3⟩, ⟨2, 0x0F, 5⟩, ⟨2, 0xE0, 4⟩, ⟨0, 0x40, -3⟩]
  btlY1 := [⟨4, 0x02, 3⟩, ⟨5, 0x0F, 5⟩, ⟨5, 0xE0, 4⟩, ⟨3, 0x40, -3⟩]
  mfZ0 := [⟨1, 0x01, 0⟩, ⟨1, 0x04, -1⟩]
  mfZ1 := [⟨4, 0x01, 0⟩, ⟨4, 0x04, -1⟩]
  twoPressure := 0x30
  cont := [⟨2, 0x10, -4⟩]
  left := [⟨0, 0x20, -5⟩]
  right := [⟨0, 0x40, -6⟩]
  middle := [⟨0, 0x80, -7⟩]
  noX := 8160
  noY := 4080
  padNoX := 8176
  padNoY := 4088
  stick := ss4Stick

/-- R197, R198: SS4-Plus differs from V8 in the x terms of TWO and MULTI packets and in the x no-data constants. -/
def ss4p : SS4Layout :=
  { v8 with
    stdX0 := [⟨0, 0x07, 4⟩, ⟨1, 0xF8, 4⟩]
    stdX1 := [⟨3, 0x07, 4⟩, ⟨4, 0xF8, 4⟩]
    btlX0 := [⟨0, 0x07, 4⟩, ⟨1, 0xF8, 4⟩, ⟨0, 0x80, -4⟩]
    btlX1 := [⟨3, 0x07, 4⟩, ⟨4, 0xF8, 4⟩, ⟨3, 0x80, -4⟩]
    noX := 4080
    padNoX := 4088 }

/-- The reference layouts. -/
def layouts : Layouts where
  v1 := v1
  v2 := v2
  v3 := v3
  v3r := v3r
  v4 := v4
  v5 := v5
  v6 := v6
  v7 := v7
  v8 := v8
  ss4p := ss4p
  v9 := []

/-- R131: z = 127 on a DUALPOINT device is a stick packet. -/
def classifyAbs : Classifier where
  rules := [⟨[.dualpoint], [⟨5, 0xFF, 127, true⟩], 5⟩]
  otherwise := 1

/-- R141, V3. -/
def classifyV3 : Classifier where
  rules := [⟨[], [⟨5, 0xFF, 0x3F, true⟩], 5⟩, ⟨[], [⟨0, 0x40, 0x40, true⟩], 3⟩]
  otherwise := 1

/-- R141, V3R. -/
def classifyV3R : Classifier where
  rules := [⟨[], [⟨5, 0xFF, 0x3F, true⟩], 5⟩, ⟨[], [⟨5, 0x40, 0x40, true⟩], 3⟩]
  otherwise := 1

/-- R151. -/
def classifyV4 : Classifier where
  rules := [⟨[], [⟨6, 0x40, 0x40, true⟩], 1⟩]
  otherwise := 3

/-- R160. -/
def classifyV5 : Classifier where
  rules := [⟨[], [⟨0, 0x20, 0x20, true⟩], 3⟩]
  otherwise := 1

/-- R170. -/
def classifyV6 : Classifier where
  rules := [⟨[], [⟨5, 0xFF, 0x7F, true⟩], 5⟩]
  otherwise := 1

/-- R181. -/
def classifyV7 : Classifier where
  rules :=
    [⟨[], [⟨0, 0xFF, 0x48, true⟩, ⟨4, 0x47, 0x06, true⟩], 5⟩,
     ⟨[], [⟨4, 0x40, 0x00, false⟩], 2⟩,
     ⟨[], [⟨4, 0x01, 0x00, false⟩], 3⟩,
     ⟨[], [⟨0, 0x10, 0x00, false⟩, ⟨4, 0x43, 0x00, true⟩], 4⟩,
     ⟨[], [⟨1, 0xFF, 0x00, true⟩, ⟨4, 0xFF, 0x00, true⟩], 0⟩]
  otherwise := 6

/-- R196, V8 and SS4P. -/
def classifySS4 : Classifier where
  rules :=
    [⟨[], [⟨3, 0x30, 0x00, true⟩, ⟨0, 0xFF, 0x18, true⟩, ⟨1, 0xFF, 0x10, true⟩, ⟨2, 0xFF, 0x00, true⟩,
           ⟨3, 0x88, 0x08, true⟩, ⟨4, 0xFF, 0x10, true⟩, ⟨5, 0xFF, 0x00, true⟩], 0⟩,
     ⟨[], [⟨3, 0x30, 0x00, true⟩], 1⟩,
     ⟨[], [⟨3, 0x30, 0x10, true⟩], 2⟩,
     ⟨[], [⟨3, 0x30, 0x20, true⟩], 5⟩]
  otherwise := 3

/-- CLASSIFY. CLASSIFY[V9] is OPEN and never consulted: a V9 packet is refused before classification (40 R95 step 5). -/
def classify : FamTable Classifier where
  v1 := classifyAbs
  v2 := classifyAbs
  v3 := classifyV3
  v3r := classifyV3R
  v4 := classifyV4
  v5 := classifyV5
  v6 := classifyV6
  v7 := classifyV7
  v8 := classifySS4
  ss4p := classifySS4
  v9 := ⟨[], 0⟩

/-- PKT_LEN (30_encoding.md R76); V9 as assumed in 95_test_vectors.md 2.8. -/
def pktLen : FamTable Nat where
  v1 := 6
  v2 := 6
  v3 := 6
  v3r := 6
  v4 := 8
  v5 := 6
  v6 := 6
  v7 := 6
  v8 := 6
  ss4p := 6
  v9 := 6

/-- The byte-0 patterns of R78; those of V6 and V9 are OPEN. -/
def byte0 : FamTable (Option Byte0) where
  v1 := some ⟨0x88, 0xF8⟩
  v2 := some ⟨0xF8, 0xF8⟩
  v3 := some ⟨0x8F, 0x8F⟩
  v3r := some ⟨0x8F, 0x8F⟩
  v4 := some ⟨0x8F, 0x8F⟩
  v5 := some ⟨0xC8, 0xC8⟩
  v6 := none
  v7 := some ⟨0x48, 0x48⟩
  v8 := some ⟨0x18, 0x18⟩
  ss4p := some ⟨0x18, 0x18⟩
  v9 := none

/-- The patterns of the other V2 models (R78). -/
def byte0OtherV2 : List Byte0 := [⟨0xCF, 0xCF⟩, ⟨0xEF, 0xEF⟩, ⟨0x8F, 0x8F⟩, ⟨0xFF, 0xFF⟩]

/-- The REGISTRY entry of a device of family f with the pattern of R78; every byte passes where the pattern is OPEN. -/
def entry (sig : Sig) (f : Family) (caps : List Cap) : RegEntry where
  sig := sig
  tag := f.code
  byte0 := ((byte0.get f).getD ⟨0, 0⟩).byte0
  mask0 := ((byte0.get f).getD ⟨0, 0⟩).mask0
  caps := caps

/-- The hypothetical REGISTRY entries of 95_test_vectors.md sections 1 and 3: dV4, dV7, dV8, dV3, dV4. -/
def registry : List RegEntry :=
  [entry ⟨0x73, 0x02, 0x64⟩ .v4 [], entry ⟨0xA1, 0xA2, 0xA3⟩ .v7 [], entry ⟨0xB1, 0xB2, 0xB3⟩ .v8 [.dualpoint],
   entry ⟨0xC1, 0xC2, 0xC3⟩ .v3 [.dualpoint], entry ⟨0xD1, 0xD2, 0xD3⟩ .v4 []]

/-- Pitch 10, offset 0 (95_test_vectors.md section 0), no reversal (43_bitmap.md R231). -/
def scale : Scale where
  pitchX := 10
  pitchY := 10
  offsetX := 0
  offsetY := 0
  revX := false
  revY := false

/-- The reference configuration (95_test_vectors.md section 0; defaults of 00_scope.md R9). -/
def cfg : Cfg where
  registry := registry
  pktLen := pktLen
  classify := classify
  layouts := layouts
  geom := { xMin := 0, xMax := 0, yMin := 0, yMax := 0, xBits := 15, yBits := 11 }
  scale := ⟨scale, scale, scale, scale, scale, scale, scale, scale, scale, scale, scale⟩
  quirks := []
  maWindow := 1
  decayN1 := 1
  decayN2 := 1
  decayD := 2
  hyst := 1
  metric := .squaredEuclidean
  matchMaxDist := none
  smooth := .movingAverage
  idleReport := .suppress
  initOrient := .direct

end Sys2Proof.Reference
end

