-- ==== Sys2Proof/Machine/State.lean ====
section
/-!
DEFINITION. The state of the block (10_state.md) as plain data, the reasons a step can stop, and the state at instance
creation (70_reset_and_hazards.md R321, R322). The fields `inbox`, `opnd`, `ret` and `bench` of `State` are the model's own.
-/

namespace Sys2Proof.Machine

/-- The byte memory of the multi-packet buffer (20_memory.md R52): cells at strictly rising addresses, none holding 0x00,
which is what an unlisted address reads as (assumption 6). -/
abbrev Memory := List Host.Cell

/-- S.dev_state (10_state.md R22). -/
inductive DevState where
  | unidentified
  | ready
  | failed
  deriving DecidableEq, Repr

/-- S.desc, the ProtocolDescriptor selected at identification (10_state.md R23). -/
structure Descriptor where
  fam : Family
  byte0 : Byte
  mask0 : Byte
  caps : List Cap
  deriving DecidableEq, Repr

/-- DecodedFields (10_state.md R32). -/
structure Fields where
  xMap : Nat := 0
  yMap : Nat := 0
  fingers : Nat := 0
  pressure : Nat := 0
  st : Pos := ⟨0, 0⟩
  mt : Vector Pos 5 := Vector.replicate 5 ⟨0, 0⟩
  npos : Nat := 0
  firstMp : Bool := false
  isMp : Bool := false
  left : Bool := false
  right : Bool := false
  middle : Bool := false
  tsLeft : Bool := false
  tsRight : Bool := false
  tsMiddle : Bool := false
  stickDx : Int := 0
  stickDy : Int := 0
  stickZ : Int := 0
  fin : Bool := false
  ges : Bool := false
  tapDrag : Bool := false
  cls : Nibble := 0
  deriving DecidableEq, Repr

/-- ZERO_FIELDS: "created fresh" (10_state.md R32). -/
abbrev Fields.zero : Fields := {}

/-- S.ctx, the DecodeContext (10_state.md R25 to R29). Byte k of multi-packet entry j stands at address 8·j + k of `mpMem`;
the entry's decoded fields are `mpFields[j]`. The geometry and quirks of R30 are views of `State.cfg`. -/
structure Ctx where
  prevFin : Bool
  mpOpen : Bool
  mpFill : Nat
  mpMem : Memory
  mpFields : Vector Fields 3
  fwVersion : Sig
  bmPrevValid : Bool
  bmPrev0 : Pos
  bmPrev1 : Pos
  bmOrient : Orient
  deriving DecidableEq, Repr

/-- A moving-average instance (10_state.md R38); `buf` has MA_WINDOW entries. -/
structure MaState where
  buf : List Int
  count : Nat
  sum : Int
  index : Nat
  deriving DecidableEq, Repr

/-- A Decay or Undecay instance (10_state.md R38). -/
structure IirState where
  last : Int
  lastvalid : Bool
  deriving DecidableEq, Repr

/-- A filter instance with the three state shapes of R38 side by side; the operations of one kind touch its own shape only
(assumption 12). -/
structure Filter where
  ma : MaState
  decay : IirState
  undecay : IirState
  deriving DecidableEq, Repr

/-- The state of a virtual finger; `touch` and `in_use` are aliases of it (10_state.md R36). -/
inductive FingerState where
  | free
  | touching
  deriving DecidableEq, Repr

/-- A virtual finger (10_state.md R36); its tag is its index in the pool (R35). -/
structure VFinger where
  state : FingerState
  x : Int
  y : Int
  z : Int
  button : Bool
  miss : Nat
  fx : Filter
  fy : Filter
  deriving DecidableEq, Repr

/-- A PhysicalContact (40_dispatch.md R114). -/
structure Contact where
  x : Int
  y : Int
  z : Int
  slot : Nat
  deriving DecidableEq, Repr

/-- status.result (10_state.md R39). -/
inductive TxResult where
  | frame
  | silent
  | error
  | refused
  deriving DecidableEq, Repr

/-- S.status (10_state.md R39). -/
structure Status where
  result : TxResult
  err : BitVec 3
  cap : Bool
  emit : Bool
  deriving DecidableEq, Repr

/-- One touch of the report (40_dispatch.md R120). -/
structure Touch where
  x : Int
  y : Int
  pressure : Int
  touch : Bool
  id : Nat
  deriving DecidableEq, Repr

/-- S.report (10_state.md R40; 40_dispatch.md R120). -/
structure Report where
  touches : List Touch
  fingers : Nat
  tpButtons : BitVec 3
  tsButtons : BitVec 3
  stickDx : Int
  stickDy : Int
  stickZ : Int
  tapDrag : Bool
  deriving DecidableEq, Repr

/-- The filter instance a filter operation works on: one of a virtual finger's two, or the one no finger owns. -/
inductive Inst where
  | bench
  | fx (tag : Fin 5)
  | fy (tag : Fin 5)
  deriving DecidableEq, Repr

/-- The operands of the operation being performed, as the opcode table lists them: e7 and ec (IDENT); the packet, which is
the PKT space of 20_memory.md R51 (DEC; by word it may be longer than PKT_MAX, assumption 25); xm, ym, fingers (BITMAP); C
and B (TRACK); instance and sample (filters). -/
structure Operands where
  e7 : Sig := ⟨0, 0, 0⟩
  ec : Sig := ⟨0, 0, 0⟩
  pkt : List Byte := []
  xm : Nat := 0
  ym : Nat := 0
  fingers : Nat := 0
  contacts : List Contact := []
  button : Bool := false
  inst : Inst := .bench
  sample : Int := 0
  deriving DecidableEq, Repr

/-- The operands of no operation: what stands between transactions. -/
abbrev Operands.none : Operands := {}

/-- An entry of the input port. `ident`, `pkt` and `reset` are the transactions of 30_encoding.md R70, whose packets have 1 to
PKT_MAX bytes (`Txn.fromHost`; other lengths are the model's own, assumption 25). `seq` is the model's
own (assumption 10): one operation selected directly by its word, with its operands; the spec's host never presents it. -/
inductive Txn where
  | ident (e7 ec : Sig)
  | pkt (p : List Byte)
  | reset
  | seq (w : Opsel) (o : Operands)
  deriving DecidableEq, Repr

/-- The result of the last internal operation run by itself: BITMAP's positions, a filter operation's value. -/
structure Ret where
  points : List Pos
  value : Int
  deriving DecidableEq, Repr

/-- The state of the block. -/
structure State where
  cfg : Cfg
  inbox : List Txn
  opnd : Operands
  devState : DevState
  desc : Descriptor
  ctx : Ctx
  fields : Fields
  vf : Vector VFinger 5
  bench : Filter
  status : Status
  report : Report
  refused : Bool
  ret : Ret
  deriving DecidableEq, Repr

/-- Why a step stops with a fault. -/
inductive Fault where
  /-- Raised by a packet operation whose packet is shorter than the bytes its family's layout reads: an access outside the
  PKT space, which "never occurs" (20_memory.md R51). Safe: the machine stops where the spec says nothing happens. -/
  | pktAddress
  deriving DecidableEq, Repr

/-- Why a step has no meaning. -/
inductive Refusal where
  /-- Raised by an arm of `exec` whose operation has no meaning in the model yet. Safe: nothing follows from it. -/
  | notModelled (mnemonic : String)
  deriving DecidableEq, Repr

/-- The outcome of a step of this machine. -/
abbrev Out := Host.Outcome State Fault Refusal

/-- A moving average with nothing in it (10_state.md R38); the buffer's contents are never read before they are written
(assumption 8). -/
def MaState.fresh (n : Nat) : MaState := ⟨List.replicate n 0, 0, 0, 0⟩

/-- A Decay or Undecay instance with no previous term (10_state.md R38). -/
def IirState.fresh : IirState := ⟨0, false⟩

/-- A filter instance in filter reset state (10_state.md R38). -/
def Filter.fresh (n : Nat) : Filter := ⟨MaState.fresh n, IirState.fresh, IirState.fresh⟩

/-- A free finger as reset leaves it (10_state.md R36). -/
def VFinger.fresh (n : Nat) : VFinger := ⟨.free, 0, 0, 0, false, 0, Filter.fresh n, Filter.fresh n⟩

/-- The status (Silent, 0, 0, 0) (10_state.md R39). -/
def Status.silent : Status := ⟨.silent, 0, false, false⟩

/-- The empty report (10_state.md R40). -/
def Report.empty : Report := ⟨[], 0, 0, 0, 0, 0, 0, false⟩

/-- The descriptor before identification: unspecified and unobservable (10_state.md R23; assumption 5). -/
def Descriptor.initial : Descriptor := ⟨.v1, 0, 0, []⟩

/-- A newly created instance of a configuration (70_reset_and_hazards.md R321, R322). -/
def State.create (c : Cfg) : State where
  cfg := c
  inbox := []
  opnd := Operands.none
  devState := .unidentified
  desc := Descriptor.initial
  ctx :=
    { prevFin := false, mpOpen := false, mpFill := 0, mpMem := [], mpFields := Vector.replicate 3 Fields.zero
      fwVersion := ⟨0, 0, 0⟩, bmPrevValid := false, bmPrev0 := ⟨0, 0⟩, bmPrev1 := ⟨0, 0⟩, bmOrient := c.initOrient }
  fields := Fields.zero
  vf := Vector.replicate 5 (VFinger.fresh c.maWindow)
  bench := Filter.fresh c.maWindow
  status := Status.silent
  report := Report.empty
  refused := false
  ret := ⟨[], 0⟩

/-- The machine right after reset: an instance created with the reference configuration (assumptions 2 and 3). -/
def State.reset : State := State.create Reference.cfg

end Sys2Proof.Machine
end

