-- ==== Sys2Proof/Machine/Operands.lean ====
section
/-!
DEFINITION. How operands are assembled: layout terms (00_scope.md R13), byte tests, classification (40_dispatch.md R98), sign
extension (R12), the reach of a layout into the packet (20_memory.md R51), and the constraints on a configuration (00_scope.md
R9, 45_filters.md R279, 70_reset_and_hazards.md R321).
-/

namespace Sys2Proof.Machine

/-- MemRead(PKT+k, 1) = p[k] (20_memory.md R51). A read at k ≥ L does not occur: the packet operations check the reach of
their layout first. The bitmap terms read a V4 group's collected map bytes by the same function; a term past them would read
0x00, which a valid configuration excludes (assumption 24). -/
def byteAt (p : List Byte) (k : Nat) : Byte := p.getD k 0

/-- SHIFT(v, s) (R13). -/
def shift (v : Nat) (s : Int) : Nat := if 0 ≤ s then v <<< s.toNat else v >>> (-s).toNat

/-- The value of one term: SHIFT(p[k] & m, s) (R13). -/
def termValue (p : List Byte) (t : Term) : Nat := shift (byteAt p t.k &&& t.m).toNat t.s

/-- FIELD(p, T): the OR over the terms of T (R13). -/
def field (p : List Byte) : Terms → Nat
  | [] => 0
  | t :: ts => termValue p t ||| field p ts

/-- A one-bit flag: a term that lands on bit 0 (R13). Of a field with bits above bit 0, which the spec does not give a meaning
and no constraint excludes, bit 0 alone counts: DESIGN CHOICE, unsafe (assumption 29). -/
def flag (p : List Byte) (t : Terms) : Bool := (field p t).testBit 0

/-- A layout field as an integer coordinate (R83: zero-extended). -/
def coord (p : List Byte) (t : Terms) : Int := (field p t : Int)

/-- The greatest of several fields (41_decoders_v1_v6.md R143). -/
def maxField (p : List Byte) : List Terms → Nat
  | [] => 0
  | t :: ts => max (field p t) (maxField p ts)

/-- sext_8 (R12), which the spec gives for 0 ≤ v ≤ 255. Of a greater v, which only a configured layout's field can be, the low
eight bits are extended in every family, as 41_decoders_v1_v6.md R172 writes it for V6: DESIGN CHOICE, unsafe (assumption 28). -/
def sext8 (v : Nat) : Int := (BitVec.ofNat 8 v).toInt

/-- The bits of `x` that are not in `m`: x & ~m on unbounded non-negative integers (R11). -/
def clearBits (x m : Nat) : Nat := x ^^^ (x &&& m)

/-- A bitmap masked to an electrode count: v & (2^bits - 1). -/
def maskBits (v bits : Nat) : Nat := v &&& (2 ^ bits - 1)

end Sys2Proof.Machine

namespace Sys2Proof

open Machine

/-- One byte test. -/
def ByteTest.passes (t : ByteTest) (p : List Byte) : Bool := ((byteAt p t.k &&& t.m) == t.v) == t.eq

end Sys2Proof

namespace Sys2Proof.Machine

/-- All tests of a list. -/
def passesAll (p : List Byte) (ts : List ByteTest) : Bool := ts.all fun t => t.passes p

/-- The descriptor has a capability flag (10_state.md R24). -/
def Descriptor.has (d : Descriptor) (c : Cap) : Bool := d.caps.contains c

/-- The first class rule that holds decides. -/
def firstClass (p : List Byte) (caps : List Cap) : List ClassRule → Nibble → Nibble
  | [], d => d
  | r :: rs, d => if r.caps.all caps.contains && passesAll p r.tests then r.cls else firstClass p caps rs d

/-- CLASSIFY[fam](p, caps) (40_dispatch.md R98): it reads no state. -/
def classifyPacket (c : Classifier) (p : List Byte) (caps : List Cap) : Nibble := firstClass p caps c.rules c.otherwise

/-- One more than the greatest byte index of a term list. -/
def reachTerms : Terms → Nat
  | [] => 0
  | t :: ts => max (t.k + 1) (reachTerms ts)

/-- One more than the greatest byte index of a list of tests. -/
def reachTests : List ByteTest → Nat
  | [] => 0
  | t :: ts => max (t.k + 1) (reachTests ts)

/-- The greatest of a list of reaches. -/
def maxOf : List Nat → Nat
  | [] => 0
  | n :: ns => max n (maxOf ns)

end Sys2Proof.Machine

namespace Sys2Proof

open Machine

/-- The bytes a stick layout reads. -/
def StickLayout.reach (l : StickLayout) : Nat :=
  maxOf ([l.x, l.y, l.z, l.left, l.right, l.middle].map reachTerms ++ l.reject.map reachTests)

/-- The bytes a button layout reads. -/
def ButtonLayout.reach (l : ButtonLayout) : Nat :=
  maxOf ([l.left, l.right, l.middle, l.tsLeft, l.tsRight, l.tsMiddle].map reachTerms)

/-- The bytes LAYOUT[V1] or LAYOUT[V2] reads. -/
def AbsLayout.reach (l : AbsLayout) : Nat :=
  maxOf ([l.x, l.y, l.z, l.left, l.right, l.middle, l.ges, l.fin, l.stickZ].map reachTerms)

/-- The bytes LAYOUT[V3] or LAYOUT[V3R] reads. -/
def PinnacleLayout.reach (l : PinnacleLayout) : Nat :=
  maxOf ([l.firstMp, l.stX, l.stY, l.pressure, l.xMap, l.yMap].map reachTerms ++ l.fingers.map reachTerms ++
    [l.buttons.reach, l.stick.reach])

/-- The bytes of a packet LAYOUT[V4] reads. The terms of xMap and yMap read no packet but a group's collected map bytes; their
reach is `mapReach`. -/
def V4Layout.reach (l : V4Layout) : Nat :=
  maxOf ([l.left, l.right, l.stX, l.stY, l.pressure].map reachTerms ++ l.mapBytes.map (· + 1))

/-- How many of a group's collected map bytes the bitmap terms read (41_decoders_v1_v6.md R154). -/
def V4Layout.mapReach (l : V4Layout) : Nat := max (reachTerms l.xMap) (reachTerms l.yMap)

/-- The bitmap terms read only the bytes three packets give, b[0..5] in the reference layout. The spec states no such
constraint: DESIGN CHOICE, safe (assumption 24). -/
def V4Layout.mapValid (l : V4Layout) : Bool := decide (l.mapReach ≤ 3 * l.mapBytes.length)

/-- The bytes LAYOUT[V5] reads. -/
def DolphinLayout.reach (l : DolphinLayout) : Nat :=
  maxOf ([l.firstMp, l.stX, l.stY, l.pressure, l.fingers, l.palm].map reachTerms ++ [reachTests l.noTouch, l.buttons.reach])

/-- The bytes LAYOUT[V6] reads. -/
def V6Layout.reach (l : V6Layout) : Nat :=
  maxOf ([l.x, l.y, l.z, l.left, l.right].map reachTerms ++ [l.stick.reach])

/-- The bytes LAYOUT[V7] reads. -/
def V7Layout.reach (l : V7Layout) : Nat :=
  maxOf ([l.m0x, l.m0y, l.m1x, l.m1y, l.multiYTerms, l.left, l.right, l.middle, l.padFingerA, l.padFingerB,
    l.fingersMore, l.pressure].map reachTerms ++ [l.stick.reach])

/-- The bytes LAYOUT[V8] or LAYOUT[SS4P] reads. -/
def SS4Layout.reach (l : SS4Layout) : Nat :=
  maxOf ([l.oneX, l.oneY, l.oneZ, l.stdX0, l.stdX1, l.btlX0, l.btlX1, l.stdY0, l.stdY1, l.btlY0, l.btlY1, l.mfZ0, l.mfZ1,
    l.cont, l.left, l.right, l.middle].map reachTerms ++ [l.stick.reach])

/-- How many bytes of a packet LAYOUT[fam] reads: every term reads a byte below this (R51). No rule
reads LAYOUT[V9]. -/
def Layouts.reach (l : Layouts) : Family → Nat
  | .v1 => l.v1.reach
  | .v2 => l.v2.reach
  | .v3 => l.v3.reach
  | .v3r => l.v3r.reach
  | .v4 => l.v4.reach
  | .v5 => l.v5.reach
  | .v6 => l.v6.reach
  | .v7 => l.v7.reach
  | .v8 => l.v8.reach
  | .ss4p => l.ss4p.reach
  | .v9 => 0

/-- How many bytes of a packet CLASSIFY[fam] reads. -/
def Classifier.reach (c : Classifier) : Nat := maxOf (c.rules.map fun r => reachTests r.tests)

/-- The class codes a classifier can return. -/
def Classifier.classes (c : Classifier) : List Nibble := c.otherwise :: c.rules.map ClassRule.cls

end Sys2Proof

namespace Sys2Proof.Machine

/-- The class code is one R79 lists for the family. -/
def legalClass (f : Family) (c : Nibble) : Bool :=
  match PacketClass.ofCode c with
  | none => false
  | some k => (packetInstr f k).isSome

/-- The families. -/
def allFamilies : List Family := [.v1, .v2, .v3, .v3r, .v4, .v5, .v6, .v7, .v8, .ss4p, .v9]

end Sys2Proof.Machine

namespace Sys2Proof

open Machine

/-- The constraints on one family's parameters: PKT_LEN in 1..PKT_MAX (R70), layout and classifier reading only bytes below
PKT_LEN (R51), the classifier returning only classes of the family (30_encoding.md R80), a stick divisor that divides (R12).
Nothing of V9 but its packet length is ever read. -/
def Cfg.familyValid (c : Cfg) (f : Family) : Bool :=
  decide (1 ≤ c.pktLen.get f) && decide (c.pktLen.get f ≤ pktMax) &&
    (f == .v9 ||
      decide (c.layouts.reach f ≤ c.pktLen.get f) && decide ((c.classify.get f).reach ≤ c.pktLen.get f) &&
        (c.classify.get f).classes.all (legalClass f))

/-- The divisors of the stick layouts are at least 1 (R12: a configuration that would divide by zero is refused). -/
def Layouts.divisorsValid (l : Layouts) : Bool :=
  [l.v3.stick, l.v3r.stick, l.v6.stick, l.v7.stick, l.v8.stick, l.ss4p.stick].all fun s =>
    decide (1 ≤ s.xDiv) && decide (1 ≤ s.yDiv)

end Sys2Proof

namespace Sys2Proof.Machine

/-- REGISTRY: no signature twice, no reserved family code (70_reset_and_hazards.md R321). -/
def registryValid : List RegEntry → Bool
  | [] => true
  | e :: es => (es.all fun e' => e'.sig != e.sig) && (Family.ofCode e.tag).isSome && registryValid es

end Sys2Proof.Machine

namespace Sys2Proof

open Machine

/-- The constraints of a configuration (00_scope.md R9, 45_filters.md R279, 70_reset_and_hazards.md R321). -/
def Cfg.valid (c : Cfg) : Bool :=
  decide (1 ≤ c.geom.xBits) && decide (c.geom.xBits ≤ 32) && decide (1 ≤ c.geom.yBits) && decide (c.geom.yBits ≤ 32) &&
    decide (1 ≤ c.maWindow) && decide (1 ≤ c.decayN1) && decide (0 ≤ c.decayN2) && decide (1 ≤ c.decayD) &&
    registryValid c.registry && allFamilies.all c.familyValid && c.layouts.divisorsValid && c.layouts.v4.mapValid

/-- The three bytes of a signature are equal (40_dispatch.md R91). -/
def Sig.matches (a b : Sig) : Bool := a.b0 == b.b0 && a.b1 == b.b1 && a.b2 == b.b2

end Sys2Proof

namespace Sys2Proof.Machine

/-- lookup(s): the entry whose signature equals s in all three bytes (40_dispatch.md R90, R91). -/
def lookup (s : Sig) : List RegEntry → Option RegEntry
  | [] => none
  | e :: es => if e.sig.matches s then some e else lookup s es

/-- The number of maximal runs of consecutive 1 bits among the low `bits` bits of m (41_decoders_v1_v6.md R154). -/
def runs (bits m : Nat) : Nat :=
  ((List.range bits).filter fun i => m.testBit i && (i == 0 || !m.testBit (i - 1))).length

end Sys2Proof.Machine
end

