-- ==== Sys2Proof/Machine/Ops.lean ====
section
/-!
DEFINITION. The named operations the whole machine shares: the byte memory of the multi-packet buffer (20_memory.md R52), the
context reset (10_state.md R31), ending a transaction with a typed error (60_exceptions.md R290 to R305) or a refusal
(00_scope.md R19), the fresh fields of a packet (40_dispatch.md R95 step 1), and the block reset (70_reset_and_hazards.md R320).
-/

namespace Sys2Proof.Machine

/-- One byte of the buffer memory; an unlisted address reads 0x00 (assumption 6). -/
def Memory.read : Memory → Nat → Byte
  | [], _ => 0
  | (b, v) :: m, a => if b = a then v else Memory.read m a

/-- Store one byte, keeping the canonical form: a cell holding 0x00 is not listed. -/
def Memory.write : Memory → Nat → Byte → Memory
  | [], a, v => if v = 0 then [] else [(a, v)]
  | (b, w) :: m, a, v =>
    if a < b then (if v = 0 then (b, w) :: m else (a, v) :: (b, w) :: m)
    else if a = b then (if v = 0 then m else (a, v) :: m)
    else (b, w) :: Memory.write m a v

/-- The canonical form: addresses strictly rising, no listed byte equal to what an unlisted address reads as. -/
abbrev Memory.wf (m : Memory) : Prop := m.Pairwise (fun c d => c.1 < d.1) ∧ ∀ c ∈ m, c.2 ≠ 0

/-- Store consecutive bytes from an address on. -/
def Memory.writeBytes : Memory → Nat → List Byte → Memory
  | m, _, [] => m
  | m, a, v :: vs => Memory.writeBytes (m.write a v) (a + 1) vs

/-- The address of byte k of multi-packet entry j. -/
def mpAddr (j k : Nat) : Nat := pktMax * j + k

/-- The PKT_MAX bytes of an entry that holds packet p; those past the packet's end are 0x00 (assumption 6), and of a longer
packet presented by word the first PKT_MAX are stored (assumption 25). -/
def entryBytes (p : List Byte) : List Byte := (List.range pktMax).map (byteAt p)

/-- MemRead of one byte of entry j (R52). -/
def entryByte (m : Memory) (j k : Nat) : Byte := m.read (mpAddr j k)

/-- `ctx.mp_buf[mp_fill] <- (p, f); mp_fill <- mp_fill + 1` (40_dispatch.md R101, R105). The vector write drops an index that
does not exist; the callers store only below MP_CAP. -/
def Ctx.store (c : Ctx) (p : List Byte) (f : Fields) : Ctx :=
  { c with
    mpMem := c.mpMem.writeBytes (mpAddr c.mpFill 0) (entryBytes p)
    mpFields := c.mpFields.setIfInBounds c.mpFill f
    mpFill := c.mpFill + 1 }

/-- `ctx.mp_open <- 0; ctx.mp_fill <- 0` (40_dispatch.md R100, R105). -/
def Ctx.close (c : Ctx) : Ctx := { c with mpOpen := false, mpFill := 0 }

/-- CTX_RESET (10_state.md R31): the dynamic decode state and nothing else. -/
def ctxReset (s : State) : State :=
  { s with
    ctx :=
      { s.ctx with
        prevFin := false, mpOpen := false, mpFill := 0, bmPrevValid := false, bmOrient := s.cfg.initOrient } }

/-- R100: any result but CONT abandons an open group, silently. -/
def abandon (s : State) : State := if s.ctx.mpOpen then { s with ctx := s.ctx.close } else s

/-- The five typed errors (60_exceptions.md R290). -/
inductive ErrorKind where
  | unsupportedSignature
  | resync
  | outOfSequence
  | unknownPacketClassification
  | capacityExceeded
  deriving DecidableEq, Repr

/-- The error codes (R290). -/
def ErrorKind.code : ErrorKind → BitVec 3
  | .unsupportedSignature => 1
  | .resync => 2
  | .outOfSequence => 3
  | .unknownPacketClassification => 4
  | .capacityExceeded => 5

/-- TAKING AN EXCEPTION: end the transaction with a typed error (60_exceptions.md R304). It saves nothing and changes no mode;
it writes S.status: result Error, the code, and the capacity and emit bits the transaction has set so far. The context effect
of the error (R293, R298) is applied by the rule that raises it. There is no return from an error (R305): the next
transaction simply starts. -/
def raiseError (e : ErrorKind) (s : State) : State := { s with status := { s.status with result := .error, err := e.code } }

/-- OutOfSequence: the context reset, then the error (40_dispatch.md R106, R107; 60_exceptions.md R293, R294). -/
def raiseOutOfSequence (s : State) : State := raiseError .outOfSequence (ctxReset s)

/-- R19: a refused transaction sets S.refused and S.status; the rest stays as it was (assumption 13). -/
def refuse (s : State) : State := { s with refused := true, status := ⟨.refused, 0, false, false⟩ }

/-- R95 step 1: `S.fields <- ZERO_FIELDS; S.status <- (Silent, 0, 0, 0)`. -/
def freshFields (s : State) : State := { s with fields := Fields.zero, status := Status.silent }

/-- R95 steps 1 and 6: fresh fields holding the packet's class. -/
def beginPacket (c : PacketClass) (s : State) : State :=
  { s with fields := { Fields.zero with cls := c.code }, status := Status.silent }

/-- MA.RESET (45_filters.md R271): the buffer's contents stay. -/
def MaState.clear (m : MaState) : MaState := { m with count := 0, sum := 0, index := 0 }

/-- DECAY.RESET and UNDECAY.RESET (45_filters.md R275, R277): `last` stays. -/
def IirState.clear (i : IirState) : IirState := { i with lastvalid := false }

/-- All three shapes of an instance in filter reset state ("reset clears all state", 10_state.md R38). -/
def Filter.clear (f : Filter) : Filter := ⟨f.ma.clear, f.decay.clear, f.undecay.clear⟩

/-- A finger as RESET leaves it (70_reset_and_hazards.md R320). -/
def VFinger.clear (v : VFinger) : VFinger := ⟨.free, 0, 0, 0, false, 0, v.fx.clear, v.fy.clear⟩

/-- RESET_ALL (70_reset_and_hazards.md R320). S.desc, mp_buf, bm_prev and S.refused keep their values. -/
def resetAll (s : State) : State :=
  { s with
    devState := .unidentified
    ctx :=
      { s.ctx with
        prevFin := false, mpOpen := false, mpFill := 0, fwVersion := ⟨0, 0, 0⟩, bmPrevValid := false
        bmOrient := s.cfg.initOrient }
    fields := Fields.zero
    vf := #v[(s.vf[0]).clear, (s.vf[1]).clear, (s.vf[2]).clear, (s.vf[3]).clear, (s.vf[4]).clear]
    bench := s.bench.clear
    report := Report.empty }

end Sys2Proof.Machine
end

