-- ==== Sys2Proof/Machine/Flags.lean ====
section
/-!
DEFINITION. Every flag and count the decode rules compute from others: the single-touch finger count (40_dispatch.md R112), the
trackstick-button gate (R113), the finger-count clamp (R115), the tap-drag edge (10_state.md R34), the button masks (R120) and
the button groups a frame carries (R121).
-/

namespace Sys2Proof.Machine

/-- R112: one finger if there is pressure, else none. -/
def singleFingers (pressure : Nat) : Nat := if 0 < pressure then 1 else 0

/-- The tap-drag edge (10_state.md R34; 41_decoders_v1_v6.md R133): at the values (ges, fin, prev_fin) of the layout's list,
which in the reference layouts are ges ∧ fin ∧ ¬prev_fin (93 G15). -/
def tapDragEdge (l : AbsLayout) (ges fin prevFin : Bool) : Bool := l.tapDrag.contains (ges, fin, prevFin)

/-- The pressure of a V1 or V2 position packet: `tapZ` at the values (ges, fin) of the layout's list, which in the reference
layouts are ges ∧ ¬fin (41_decoders_v1_v6.md R133; 93 G14). -/
def tapPressure (l : AbsLayout) (ges fin : Bool) (z : Nat) : Nat := if l.tapWhen.contains (ges, fin) then l.tapZ else z

/-- R113: the trackstick buttons of a touchpad packet are kept only on a device with TS_BUTTONS. -/
def gateTs (d : Descriptor) (f : Fields) : Fields :=
  if d.has .tsButtons then f else { f with tsLeft := false, tsRight := false, tsMiddle := false }

/-- R110: the number of positions and, by R115, the finger count are at most MAX_TOUCHES. -/
def clampFields (f : Fields) : Fields := { f with fingers := min f.fingers maxTouches, npos := min f.npos maxTouches }

/-- R115: the clamp changes the finger count, which is the CapacityExceeded condition. -/
def overFull (f : Fields) : Bool := decide (maxTouches < f.fingers)

/-- The frame button bit B: any touchpad button (44_tracker.md R240). -/
def anyButton (f : Fields) : Bool := f.left || f.right || f.middle

/-- A 3-bit mask: bit 0 left, bit 1 right, bit 2 middle (R120). -/
def buttonMask (left right middle : Bool) : BitVec 3 :=
  (BitVec.ofBool middle ++ BitVec.ofBool right) ++ BitVec.ofBool left

/-- The kinds of frame a report is built for (R121). -/
inductive FrameKind where
  /-- A touchpad frame: position, merged, idle, or unknown treated as idle. -/
  | touchpad
  /-- A trackstick frame. -/
  | stick
  deriving DecidableEq, Repr

/-- R121: the touchpad-button group is carried by every touchpad frame. -/
def carriesTp : FrameKind → Bool
  | .touchpad => true
  | .stick => false

/-- The families whose touchpad layout has trackstick-button fields (R121). -/
def tsFamily : Family → Bool
  | .v3 | .v3r | .v5 => true
  | .v1 | .v2 | .v4 | .v6 | .v7 | .v8 | .ss4p | .v9 => false

/-- R121: the trackstick-button group is carried by a stick frame, and by a touchpad frame of such a family on a device with
TS_BUTTONS. -/
def carriesTs (fam : Family) (d : Descriptor) : FrameKind → Bool
  | .stick => true
  | .touchpad => tsFamily fam && d.has .tsButtons

end Sys2Proof.Machine
end

