-- ==== Sys2Proof/Machine/Filters.lean ====
section
/-!
DEFINITION. The numeric filters (45_filters.md): the functions over one instance's state (R278) and the eight filter operations.
Division truncates toward zero (00_scope.md R12).
-/

namespace Sys2Proof.Machine

/-- MA.FILTER with window n (45_filters.md R270): the new state; the value returned is `maMean` of it. -/
def maPush (n : Nat) (m : MaState) (x : Int) : MaState :=
  { buf := m.buf.set m.index x
    count := if m.count < n then m.count + 1 else m.count
    sum := if m.count = n then m.sum + x - m.buf.getD m.index 0 else m.sum + x
    index := if m.index + 1 = n then 0 else m.index + 1 }

/-- sum / count, truncating (R270). -/
def maMean (m : MaState) : Int := m.sum.tdiv m.count

/-- MA.OLDEST with window n (R272). -/
def maOldestOf (n : Nat) (m : MaState) : Int :=
  if m.count = 0 then 0 else if m.count < n then m.buf.getD 0 0 else m.buf.getD m.index 0

/-- MA.NEWEST (R273). -/
def maNewestOf (m : MaState) : Int :=
  if m.count = 0 then 0 else if m.index = 0 then m.buf.getD (m.count - 1) 0 else m.buf.getD (m.index - 1) 0

/-- The value of DECAY.FILTER (R274): two truncating divisions. -/
def decayValue (n1 n2 d : Int) (i : IirState) (x : Int) : Int :=
  if i.lastvalid then (x * n1).tdiv d + (i.last * n2).tdiv d else x

/-- DECAY.FILTER keeps its output (R274). -/
def decayPush (n1 n2 d : Int) (i : IirState) (x : Int) : IirState := ⟨decayValue n1 n2 d i x, true⟩

/-- The value of UNDECAY.FILTER (R276). -/
def undecayValue (n1 n2 d : Int) (i : IirState) (y : Int) : Int :=
  if i.lastvalid then (y * d).tdiv n1 - (i.last * n2).tdiv n1 else y

/-- UNDECAY.FILTER keeps its input (R276). -/
def undecayPush (y : Int) : IirState := ⟨y, true⟩

/-- The filter instance an operand names. -/
def getInst (s : State) : Inst → Filter
  | .bench => s.bench
  | .fx i => (s.vf[i]).fx
  | .fy i => (s.vf[i]).fy

/-- Write a filter instance; every other instance stays (R278). -/
def setInst (s : State) (i : Inst) (f : Filter) : State :=
  match i with
  | .bench => { s with bench := f }
  | .fx i => { s with vf := s.vf.set i { s.vf[i] with fx := f } }
  | .fy i => { s with vf := s.vf.set i { s.vf[i] with fy := f } }

/-- The value an internal operation returns to its caller. -/
def returnValue (v : Int) (s : State) : State := { s with ret := { s.ret with value := v } }

/-- MA.FILTER (45_filters.md R270). -/
def execMaFilter (s : State) : Out :=
  let f := getInst s s.opnd.inst
  let m := maPush s.cfg.maWindow f.ma s.opnd.sample
  .next (returnValue (maMean m) (setInst s s.opnd.inst { f with ma := m }))

/-- MA.RESET (45_filters.md R271). -/
def execMaReset (s : State) : Out :=
  let f := getInst s s.opnd.inst
  .next (setInst s s.opnd.inst { f with ma := f.ma.clear })

/-- MA.OLDEST (45_filters.md R272). -/
def execMaOldest (s : State) : Out :=
  .next (returnValue (maOldestOf s.cfg.maWindow (getInst s s.opnd.inst).ma) s)

/-- MA.NEWEST (45_filters.md R273). -/
def execMaNewest (s : State) : Out :=
  .next (returnValue (maNewestOf (getInst s s.opnd.inst).ma) s)

/-- DECAY.FILTER (45_filters.md R274). -/
def execDecayFilter (s : State) : Out :=
  let f := getInst s s.opnd.inst
  let i := decayPush s.cfg.decayN1 s.cfg.decayN2 s.cfg.decayD f.decay s.opnd.sample
  .next (returnValue i.last (setInst s s.opnd.inst { f with decay := i }))

/-- DECAY.RESET (45_filters.md R275). -/
def execDecayReset (s : State) : Out :=
  let f := getInst s s.opnd.inst
  .next (setInst s s.opnd.inst { f with decay := f.decay.clear })

/-- UNDECAY.FILTER (45_filters.md R276). -/
def execUndecayFilter (s : State) : Out :=
  let f := getInst s s.opnd.inst
  let v := undecayValue s.cfg.decayN1 s.cfg.decayN2 s.cfg.decayD f.undecay s.opnd.sample
  .next (returnValue v (setInst s s.opnd.inst { f with undecay := undecayPush s.opnd.sample }))

/-- UNDECAY.RESET (45_filters.md R277). -/
def execUndecayReset (s : State) : Out :=
  let f := getInst s s.opnd.inst
  .next (setInst s s.opnd.inst { f with undecay := f.undecay.clear })

end Sys2Proof.Machine
end

