-- ==== Sys2Proof/Machine/Tracker.lean ====
section
/-!
DEFINITION. The virtual-finger slot tracker (44_tracker.md): TRACK as one function of the configuration, the pool and (C, B), and
the operation TRACK.
-/

namespace Sys2Proof.Machine

/-- The pool of five virtual fingers (10_state.md R35). -/
abbrev Pool := Vector VFinger 5

/-- DIST on two points (44_tracker.md R243). -/
def dist (m : Metric) (ax ay bx byy : Int) : Nat :=
  match m with
  | .squaredEuclidean => (ax - bx).natAbs ^ 2 + (ay - byy).natAbs ^ 2
  | .manhattan => (ax - bx).natAbs + (ay - byy).natAbs

/-- DIST(vf[i], C[c]): from the finger's smoothed position (R242). -/
def fingerDist (m : Metric) (v : VFinger) (k : Contact) : Nat := dist m v.x v.y k.x k.y

/-- SMOOTH(F, v): the FILTER operation of kind SMOOTH_KIND on instance F (R240). -/
def smooth (c : Cfg) (f : Filter) (v : Int) : Filter :=
  match c.smooth with
  | .movingAverage => { f with ma := maPush c.maWindow f.ma v }
  | .decay => { f with decay := decayPush c.decayN1 c.decayN2 c.decayD f.decay v }

/-- The value SMOOTH returns, read from the instance it has just fed. -/
def smoothed (c : Cfg) (f : Filter) : Int :=
  match c.smooth with
  | .movingAverage => maMean f.ma
  | .decay => f.decay.last

/-- FILTER_RESET of the tracker: the RESET operation of kind SMOOTH_KIND (R240). -/
def filterReset (c : Cfg) (f : Filter) : Filter :=
  match c.smooth with
  | .movingAverage => { f with ma := f.ma.clear }
  | .decay => { f with decay := f.decay.clear }

/-- BIND (R240, R245). -/
def bindFinger (c : Cfg) (v : VFinger) (k : Contact) (b : Bool) : VFinger :=
  let fx := smooth c v.fx k.x
  let fy := smooth c v.fy k.y
  { v with x := smoothed c fx, y := smoothed c fy, z := k.z, button := b, miss := 0, fx := fx, fy := fy }

/-- RELEASE (R249). -/
def releaseFinger (c : Cfg) (v : VFinger) : VFinger :=
  { state := .free, x := 0, y := 0, z := 0, button := false, miss := 0
    fx := filterReset c v.fx, fy := filterReset c v.fy }

/-- A free finger allocated to a contact (R246): filters reset, then bound. -/
def allocFinger (c : Cfg) (v : VFinger) (k : Contact) (b : Bool) : VFinger :=
  bindFinger c { v with state := .touching, miss := 0, fx := filterReset c v.fx, fy := filterReset c v.fy } k b

/-- A candidate pair of the matching step: a finger, a contact and their distance. -/
structure Cand where
  tag : Fin 5
  contact : Contact
  d : Nat
  deriving DecidableEq, Repr

/-- The order of R242: distance, then slot, then tag. -/
def Cand.before (a b : Cand) : Bool :=
  decide (a.d < b.d ∨ (a.d = b.d ∧ (a.contact.slot < b.contact.slot ∨
    (a.contact.slot = b.contact.slot ∧ a.tag < b.tag))))

/-- The least candidate; the earlier one of two that the order does not tell apart. -/
def leastCand : List Cand → Option Cand
  | [] => none
  | a :: as =>
    match leastCand as with
    | none => some a
    | some b => if b.before a then some b else some a

/-- A distance is at most MATCH_MAX_DIST (R244). -/
def within (limit : Option Nat) (d : Nat) : Bool :=
  match limit with
  | none => true
  | some l => decide (d ≤ l)

/-- The candidate pairs of the unmatched fingers and contacts (R240 step 1). -/
def candidates (c : Cfg) (pool : Pool) (uv : List (Fin 5)) (uc : List Contact) : List Cand :=
  uv.flatMap fun i =>
    (uc.map fun k => (⟨i, k, fingerDist c.metric pool[i] k⟩ : Cand)).filter fun a => within c.matchMaxDist a.d

/-- What the steps of TRACK hand on: the pool, the unmatched fingers and the unmatched contacts. -/
structure Matching where
  pool : Pool
  uv : List (Fin 5)
  uc : List Contact
  deriving DecidableEq, Repr

/-- Step 1, greedy global nearest neighbour (R242). Each round takes one contact away, so as many rounds as there are
contacts are enough. -/
def matchLoop (c : Cfg) (b : Bool) : Nat → Matching → Matching
  | 0, m => m
  | n + 1, m =>
    match leastCand (candidates c m.pool m.uv m.uc) with
    | none => m
    | some a =>
      matchLoop c b n
        { pool := m.pool.set a.tag (bindFinger c m.pool[a.tag] a.contact b)
          uv := m.uv.erase a.tag
          uc := m.uc.erase a.contact }

/-- Step 3 on one unmatched Touching finger: it ages, and is released after HYST grace frames (R248). -/
def ageFinger (c : Cfg) (v : VFinger) : VFinger :=
  if c.hyst < v.miss + 1 then releaseFinger c v else { v with miss := v.miss + 1 }

/-- Step 3, unmatched Touching fingers in ascending order (R240). -/
def agePool (c : Cfg) : List (Fin 5) → Pool → Pool
  | [], pool => pool
  | i :: is, pool => agePool c is (pool.set i (ageFinger c pool[i]))

/-- REL: the unmatched fingers that step 3 releases (R240). -/
def releasedBy (c : Cfg) (pool : Pool) (uv : List (Fin 5)) : List (Fin 5) :=
  uv.filter fun i => decide (c.hyst < (pool[i]).miss + 1)

/-- The tags of the pool, ascending. -/
def allTags : List (Fin 5) := [0, 1, 2, 3, 4]

/-- min FREE: the lowest free tag not released in this frame (R246). -/
def lowestFree (pool : Pool) (rel : List (Fin 5)) : Option (Fin 5) :=
  allTags.find? fun i => decide ((pool[i]).state = .free) && !rel.contains i

/-- Insert by slot, before equal slots. -/
def insertBySlot (k : Contact) : List Contact → List Contact
  | [] => [k]
  | h :: t => if k.slot ≤ h.slot then k :: h :: t else h :: insertBySlot k t

/-- Contacts in ascending slot order (R246); CONTACTS makes them so already (R241, assumption 22). -/
def sortBySlot : List Contact → List Contact
  | [] => []
  | k :: ks => insertBySlot k (sortBySlot ks)

/-- Step 2, unmatched contacts allocate free fingers; one that finds none is dropped and reported (R246, R247). -/
def allocLoop (c : Cfg) (b : Bool) (rel : List (Fin 5)) : List Contact → Pool × Bool → Pool × Bool
  | [], r => r
  | k :: ks, (pool, cap) =>
    match lowestFree pool rel with
    | none => allocLoop c b rel ks (pool, true)
    | some i => allocLoop c b rel ks (pool.set i (allocFinger c pool[i] k b), cap)

/-- The Touching fingers, ascending (R240). -/
def touchingTags (pool : Pool) : List (Fin 5) := allTags.filter fun i => decide ((pool[i]).state = .touching)

/-- TRACK (R240): the new pool, and whether a contact was dropped. -/
def trackPool (c : Cfg) (contacts : List Contact) (b : Bool) (pool : Pool) : Pool × Bool :=
  let m := matchLoop c b contacts.length ⟨pool, touchingTags pool, contacts⟩
  let rel := releasedBy c m.pool m.uv
  allocLoop c b rel (sortBySlot m.uc) (agePool c m.uv m.pool, false)

/-- SEQ(TRACK, C) (R240): writes `vf` and `status.cap`. -/
def track (contacts : List Contact) (b : Bool) (s : State) : State :=
  let r := trackPool s.cfg contacts b s.vf
  { s with vf := r.1, status := { s.status with cap := s.status.cap || r.2 } }

/-- TRACK (44_tracker.md R240), on the operands C and B. -/
def execTrack (s : State) : Out := .next (track s.opnd.contacts s.opnd.button s)

end Sys2Proof.Machine
end

