-- ==== Sys2Proof/Machine/Bitmap.lean ====
section
/-!
DEFINITION. The Bitmap Decoder (43_bitmap.md): two electrode bitmaps and a finger count give at most two positions and the new
pairing state.
-/

namespace Sys2Proof.Machine

/-- The asserted positions of a bitmap, ascending (43_bitmap.md R221). -/
def asserted (bits m : Nat) : List Nat := (List.range bits).filter m.testBit

/-- COORD(i, j) (R226). -/
def coordOf (g : Geometry) (k : Scale) (i j : Nat) : Pos :=
  let px : Int := if k.revX then (g.xBits : Int) - 1 - i else i
  let py : Int := if k.revY then (g.yBits : Int) - 1 - j else j
  ⟨k.offsetX + px * k.pitchX, k.offsetY + py * k.pitchY⟩

/-- DIST on two positions (R225, 44_tracker.md R243). -/
def posDist (m : Metric) (a b : Pos) : Nat := dist m a.x a.y b.x b.y

/-- The summed distance of a candidate pair to the previous output (R225). -/
def pairCost (m : Metric) (x : Ctx) (p q : Pos) : Nat := posDist m p x.bmPrev0 + posDist m q x.bmPrev1

/-- ORIENT(D, C) (R225). -/
def orientOf (m : Metric) (x : Ctx) (d0 d1 c0 c1 : Pos) : Orient :=
  if x.bmPrevValid then
    if pairCost m x d0 d1 < pairCost m x c0 c1 then .direct
    else if pairCost m x c0 c1 < pairCost m x d0 d1 then .crossed
    else x.bmOrient
  else x.bmOrient

/-- BITMAP with two or more fingers and both axes asserted (R224, R225, R227). -/
def bitmapPair (c : Cfg) (k : Scale) (x : Ctx) (xlo xhi ylo yhi : Nat) : List Pos × Ctx :=
  let d0 := coordOf c.geom k xlo ylo
  let d1 := coordOf c.geom k xhi yhi
  let c0 := coordOf c.geom k xlo yhi
  let c1 := coordOf c.geom k xhi ylo
  match orientOf c.metric x d0 d1 c0 c1 with
  | .direct => ([d0, d1], { x with bmPrevValid := true, bmPrev0 := d0, bmPrev1 := d1, bmOrient := .direct })
  | .crossed => ([c0, c1], { x with bmPrevValid := true, bmPrev0 := c0, bmPrev1 := c1, bmOrient := .crossed })

/-- BITMAP(xm, ym, fingers) (R220): the positions and the new pairing state. -/
def bitmapOf (c : Cfg) (k : Scale) (x : Ctx) (xm ym fingers : Nat) : List Pos × Ctx :=
  match asserted c.geom.xBits xm, asserted c.geom.yBits ym with
  | xlo :: xs, ylo :: ys =>
    if fingers = 0 then ([], { x with bmPrevValid := false })
    else if fingers = 1 then ([coordOf c.geom k xlo ylo], { x with bmPrevValid := false })
    else bitmapPair c k x xlo ((xlo :: xs).getLast (by simp)) ylo ((ylo :: ys).getLast (by simp))
  | _, _ => ([], { x with bmPrevValid := false })

/-- SEQ(BITMAP, xm, ym, fingers) at the pitch, offset and reversal of the device's family (R226, R231; assumption 16). -/
def bitmapAt (s : State) (xm ym fingers : Nat) : List Pos × Ctx :=
  bitmapOf s.cfg (s.cfg.scale.get s.desc.fam) s.ctx xm ym fingers

/-- BITMAP (43_bitmap.md R220), on the operands xm, ym and fingers. -/
def execBitmap (s : State) : Out :=
  let r := bitmapAt s s.opnd.xm s.opnd.ym s.opnd.fingers
  .next { s with ctx := r.2, ret := { s.ret with points := r.1 } }

end Sys2Proof.Machine
end

