-- ==== Sys2Proof/Machine/Process.lean ====
section
/-!
DEFINITION. What every packet operation shares after its decode (40_dispatch.md): PROCESS of a decode result, multi-packet
reassembly and the merges (41_decoders_v1_v6.md R150, R154; 42_decoders_v7_ss4.md R206), the contact list, FRAME and the report.
-/

namespace Sys2Proof.Machine

/-- MERGE[fam]: how a family merges a group (R105). -/
inductive Merge where
  /-- MERGE_BITMAP of V3, V3R and V5 (41 R150). -/
  | bitmap
  /-- MERGE_V4 (41 R154). -/
  | v4
  /-- MERGE_SS4 of V8 and SS4P (42 R206). -/
  | ss4
  deriving DecidableEq, Repr

/-- A decode result (40_dispatch.md R99). -/
inductive Decoded where
  /-- POS(f); `prevFin` is the context write of V1 and V2 (41 R133). -/
  | pos (f : Fields) (prevFin : Option Bool)
  /-- CONT(f, term), with the family's merge. -/
  | cont (f : Fields) (term : Bool) (merge : Merge)
  | idle
  | drop
  | stick (f : Fields)
  | unknown
  deriving DecidableEq, Repr

/-- HAS_MP(fam) (40_dispatch.md R101). -/
def hasMp : Family → Bool
  | .v3 | .v3r | .v4 | .v5 | .v8 | .ss4p => true
  | .v1 | .v2 | .v6 | .v7 | .v9 => false

/-- CONTACTS(f) (40_dispatch.md R114). -/
def contactsOf (f : Fields) : List Contact :=
  if f.npos = 0 then
    if 1 ≤ f.fingers then [⟨f.st.x, f.st.y, f.pressure, 0⟩] else []
  else
    (f.mt.toList.zipIdx.take (min f.fingers f.npos)).map fun p => ⟨p.1.x, p.1.y, f.pressure, p.2⟩

/-- The touches of a pool: the Touching fingers in ascending tag order (R120; 44_tracker.md R250). -/
def touchesOf (pool : Pool) : List Touch :=
  (touchingTags pool).map fun i => ⟨(pool[i]).x, (pool[i]).y, (pool[i]).z, true, i.val⟩

/-- BUILD_REPORT (R120, R121). A button group the frame does not carry keeps the previous report's value. -/
def buildReport (fam : Family) (kind : FrameKind) (s : State) : Report :=
  let f := s.fields
  { touches := touchesOf s.vf
    fingers := f.fingers
    tpButtons := if carriesTp kind then buttonMask f.left f.right f.middle else s.report.tpButtons
    tsButtons := if carriesTs fam s.desc kind then buttonMask f.tsLeft f.tsRight f.tsMiddle else s.report.tsButtons
    stickDx := if kind = .stick then f.stickDx else 0
    stickDy := if kind = .stick then f.stickDy else 0
    stickZ := if kind = .stick then f.stickZ else 0
    tapDrag := f.tapDrag }

/-- `BUILD_REPORT(); emit(S.report)`, result Frame (R110, R111). -/
def emitReport (fam : Family) (kind : FrameKind) (s : State) : State :=
  { s with report := buildReport fam kind s, status := { s.status with result := .frame, emit := true } }

/-- `if S.status.cap = 1: S.status.err <- CapacityExceeded` (R110; 60_exceptions.md R301). -/
def raiseIfFull (s : State) : State := if s.status.cap then raiseError .capacityExceeded s else s

/-- The fields a frame writes to S.fields: gated (R113), clamped (R110), the class as classified (10_state.md R34,
assumption 15). -/
def frameFields (s : State) (f : Fields) : Fields := { clampFields (gateTs s.desc f) with cls := s.fields.cls }

/-- FRAME(f) (R110). -/
def frame (fam : Family) (f : Fields) (s : State) : State :=
  let g := frameFields s f
  let s1 := { s with fields := g, status := { s.status with cap := s.status.cap || overFull f } }
  raiseIfFull (emitReport fam .touchpad (track (contactsOf g) (anyButton g) s1))

/-- PROCESS(POS(f)) after R100 (R101), with the context write of V1 and V2. -/
def processPos (fam : Family) (f : Fields) (prevFin : Option Bool) (s : State) : State :=
  let s1 :=
    match prevFin with
    | some b => { s with ctx := { s.ctx with prevFin := b } }
    | none => s
  if f.firstMp && hasMp fam then
    { s1 with ctx := { ({ s1.ctx with mpFill := 0 }).store s1.opnd.pkt (gateTs s1.desc f) with mpOpen := true } }
  else frame fam f s1

/-- PROCESS(IDLE) after R100 (R102): the tracker steps with no contacts; a report only if IDLE_REPORT = Emit. -/
def processIdle (fam : Family) (s : State) : State :=
  let s1 := track [] (anyButton s.fields) s
  match s1.cfg.idleReport with
  | .suppress => s1
  | .emit => emitReport fam .touchpad s1

/-- PROCESS(STICK(f)) after R100 (R111): no tracker step. -/
def processStick (fam : Family) (f : Fields) (s : State) : State :=
  emitReport fam .stick { s with fields := { f with cls := s.fields.cls } }

/-- PROCESS(UNKNOWN) after R100 (R109; 60_exceptions.md R298). -/
def processUnknown (fam : Family) (s : State) : State :=
  raiseError .unknownPacketClassification (processIdle fam (ctxReset s))

/-- The positions BITMAP returns, written to f.mt[0..n-1] with f.npos = n (41 R150, R154). -/
def putPoints (f : Fields) (ps : List Pos) : Fields :=
  match ps with
  | [] => { f with npos := 0 }
  | [a] => { f with mt := f.mt.set 0 a, npos := 1 }
  | a :: b :: _ => { f with mt := (f.mt.set 0 a).set 1 b, npos := 2 }

/-- MERGE_BITMAP on entries 0 and 1 (41 R150). -/
def mergeBitmap (s : State) : Fields × Ctx :=
  let e0 := s.ctx.mpFields[0]
  let e1 := s.ctx.mpFields[1]
  let r := bitmapAt s e1.xMap e1.yMap e1.fingers
  (putPoints { e0 with xMap := e1.xMap, yMap := e1.yMap, fingers := e1.fingers, firstMp := false, isMp := false } r.1, r.2)

/-- The group's bitmap bytes b[0..5]: the map bytes of entries 0, 1, 2, in order (41 R154). -/
def v4MapBytes (l : V4Layout) (m : Memory) : List Byte :=
  l.mapBytes.map (entryByte m 0) ++ l.mapBytes.map (entryByte m 1) ++ l.mapBytes.map (entryByte m 2)

/-- MERGE_V4 on entries 0, 1 and 2 (41 R154). Without a bitmap position the frame falls back to the last packet's single-touch
position, as R154 and 92 D11 take it; 43 R222 and 92 D23 say the opener's: DEDUCED, unsafe
(assumption 27). -/
def mergeV4 (s : State) : Fields × Ctx :=
  let l := s.cfg.layouts.v4
  let b := v4MapBytes l s.ctx.mpMem
  let xm := maskBits (field b l.xMap) s.cfg.geom.xBits
  let ym := maskBits (field b l.yMap) s.cfg.geom.yBits
  let n := max (runs s.cfg.geom.xBits xm) (runs s.cfg.geom.yBits ym)
  let r := bitmapAt s xm ym n
  (putPoints { s.ctx.mpFields[2] with xMap := xm, yMap := ym, fingers := n, firstMp := false, isMp := false } r.1, r.2)

/-- MERGE_SS4 on entries 0 and 1 (42 R206). -/
def mergeSS4 (s : State) : Fields × Ctx :=
  let e0 := s.ctx.mpFields[0]
  let e1 := s.ctx.mpFields[1]
  ({ e0 with
      mt := (e0.mt.set 2 e1.mt[2]).set 3 e1.mt[3], fingers := e1.fingers, npos := 4, firstMp := false, isMp := false },
   s.ctx)

/-- MERGE[fam] (40 R105): the merged fields and the context with the new pairing state. -/
def mergeGroup (m : Merge) (s : State) : Fields × Ctx :=
  match m with
  | .bitmap => mergeBitmap s
  | .v4 => mergeV4 s
  | .ss4 => mergeSS4 s

/-- A continuation with a group open and room in the buffer (40 R105). -/
def processStored (fam : Family) (f : Fields) (term : Bool) (m : Merge) (s : State) : State :=
  let s1 := { s with ctx := s.ctx.store s.opnd.pkt f }
  if term then
    let r := mergeGroup m s1
    frame fam r.1 { s1 with ctx := r.2.close }
  else s1

/-- PROCESS(CONT(f, term)) (40 R105, R106, R107). -/
def processCont (fam : Family) (f : Fields) (term : Bool) (m : Merge) (s : State) : State :=
  if s.ctx.mpOpen && decide (s.ctx.mpFill < mpCap) then processStored fam f term m s else raiseOutOfSequence s

/-- PROCESS(r) (40 R95 step 8, R100 to R109, R111). -/
def process (fam : Family) (r : Decoded) (s : State) : State :=
  match r with
  | .pos f w => processPos fam f w (abandon s)
  | .cont f term m => processCont fam f term m s
  | .idle => processIdle fam (abandon s)
  | .drop => abandon s
  | .stick f => processStick fam f (abandon s)
  | .unknown => processUnknown fam (abandon s)

/-- A packet operation that reads packet bytes (40 R95 steps 6 to 8). The packet must hold every byte the family's layout
reads; the checks of R95 steps 3 and 4 and the constraint of 20_memory.md R51 ensure it in a transaction (assumption 18). -/
def runDecoder (fam : Family) (cls : PacketClass) (dec : State → Decoded) (s : State) : Out :=
  if s.opnd.pkt.length < s.cfg.layouts.reach fam then .fault .pktAddress
  else .next (process fam (dec (beginPacket cls s)) (beginPacket cls s))

/-- A packet operation that reads no packet byte. -/
def runClass (fam : Family) (cls : PacketClass) (r : Decoded) (s : State) : Out := .next (process fam r (beginPacket cls s))

end Sys2Proof.Machine
end

