-- ==== Sys2Proof/Machine/Control.lean ====
section
/-!
DEFINITION. The host transactions IDENT (40_dispatch.md R90) and RESET (70_reset_and_hazards.md R320), and the refused packets of
V9 (41_decoders_v1_v6.md R178).
-/

namespace Sys2Proof.Machine

/-- Raise UnsupportedSignature from a fresh status (60_exceptions.md R291, R292). -/
def raiseUnsupported (s : State) : State := raiseError .unsupportedSignature { s with status := Status.silent }

/-- The descriptor of a registry entry of a family (40_dispatch.md R90). -/
def entryDescriptor (f : Family) (e : RegEntry) : Descriptor := ⟨f, e.byte0, e.mask0, e.caps⟩

/-- IDENT (40_dispatch.md R90). An entry with a reserved family code is a configuration error and is refused (30_encoding.md
R80). -/
def execIdent (s : State) : Out :=
  let s0 := resetAll s
  match lookup s.opnd.e7 s.cfg.registry with
  | none => .next (raiseUnsupported { s0 with devState := .failed })
  | some e =>
    match Family.ofCode e.tag with
    | none => .next (refuse s0)
    | some f =>
      .next
        { s0 with
          desc := entryDescriptor f e
          ctx := { s0.ctx with fwVersion := s.opnd.ec }
          devState := .ready
          status := Status.silent }

/-- RESET (70_reset_and_hazards.md R320). -/
def execReset (s : State) : Out := .next { resetAll s with status := Status.silent }

/-- DEC.V9.* (41_decoders_v1_v6.md R178): refused after R95 step 1, whatever the class. -/
def execDecV9 (_cls : Nibble) (s : State) : Out := .next (refuse (freshFields s))

end Sys2Proof.Machine
end

