-- ==== Sys2Proof/Machine/Stick.lean ====
section
/-!
DEFINITION. The trackstick decode the families V3, V3R, V6, V7, V8 and SS4P share (41_decoders_v1_v6.md R137, R146, R149, R172;
42_decoders_v7_ss4.md R189, R204, R214): one rule over the family's stick layout.
-/

namespace Sys2Proof.Machine

/-- The stick x, y, z of a packet; the lift marker reads as (0, 0, 0) (R172). -/
def stickRaw (l : StickLayout) (p : List Byte) : Nat × Nat × Nat :=
  let v := (field p l.x, field p l.y, field p l.z)
  if l.lift = some v then (0, 0, 0) else v

/-- The fields of a stick packet: sext_8 deltas over truncating divisions, y negated. R189, R204 and R214 write no division: the
divisors are 1 there in the reference layouts, and others are the model's generalisation (assumption 4). -/
def stickFields (l : StickLayout) (p : List Byte) (f : Fields) : Fields :=
  let v := stickRaw l p
  { f with
    stickDx := (sext8 v.1).tdiv l.xDiv
    stickDy := -((sext8 v.2.1).tdiv l.yDiv)
    stickZ := v.2.2
    tsLeft := flag p l.left
    tsRight := flag p l.right
    tsMiddle := flag p l.middle }

/-- A stick packet: dropped on a device without DUALPOINT (R137) and where the layout's sanity check rejects it (R146). -/
def decodeStick (l : StickLayout) (s : State) : Decoded :=
  if s.desc.has .dualpoint then
    if l.reject.any (passesAll s.opnd.pkt) then .drop else .stick (stickFields l s.opnd.pkt s.fields)
  else .drop

end Sys2Proof.Machine
end

