-- ==== Sys2Proof/Machine/DecSS4.lean ====
section
/-!
DEFINITION. Packet operations of V8 (SS4) and SS4-Plus (42_decoders_v7_ss4.md R195 to R215), over one layout type.
-/

namespace Sys2Proof.Machine

/-- The buttons of a touchpad packet: right and middle only without BUTTONPAD (R199). -/
def ss4Buttons (l : SS4Layout) (p : List Byte) (pad : Bool) (f : Fields) : Fields :=
  { f with
    left := flag p l.left
    right := !pad && flag p l.right
    middle := !pad && flag p l.middle }

/-- (MX(0), MY(0)): the first position of a TWO or MULTI packet (R197). -/
def ss4Pos0 (l : SS4Layout) (p : List Byte) (pad : Bool) : Pos :=
  if pad then ⟨coord p l.btlX0, coord p l.btlY0⟩ else ⟨coord p l.stdX0, coord p l.stdY0⟩

/-- (MX(1), MY(1)): the second position of a TWO or MULTI packet (R197). -/
def ss4Pos1 (l : SS4Layout) (p : List Byte) (pad : Bool) : Pos :=
  if pad then ⟨coord p l.btlX1, coord p l.btlY1⟩ else ⟨coord p l.stdX1, coord p l.stdY1⟩

/-- (NO_X, NO_Y) (R198). -/
def ss4NoData (l : SS4Layout) (pad : Bool) : Pos := if pad then ⟨l.padNoX, l.padNoY⟩ else ⟨l.noX, l.noY⟩

/-- The pressure of a ONE packet (R201). -/
def ss4OnePressure (l : SS4Layout) (p : List Byte) : Nat := (field p l.oneZ * l.oneZMul) &&& l.oneZMask

/-- The fields of a ONE packet (R201). -/
def ss4OneFields (l : SS4Layout) (p : List Byte) (pad : Bool) (f : Fields) : Fields :=
  ss4Buttons l p pad
    { f with
      st := ⟨coord p l.oneX, coord p l.oneY⟩
      pressure := ss4OnePressure l p
      npos := 0
      fingers := singleFingers (ss4OnePressure l p)
      firstMp := false
      isMp := false }

/-- POS(f) of a ONE packet (R201, R211). -/
def decodeSS4One (l : SS4Layout) (s : State) : Decoded :=
  .pos (ss4OneFields l s.opnd.pkt (s.desc.has .buttonpad) s.fields) none

/-- The fields of a TWO packet (R202): with the continuation bit it opens a group and counts no finger. -/
def ss4TwoFields (l : SS4Layout) (p : List Byte) (pad : Bool) (f : Fields) : Fields :=
  ss4Buttons l p pad
    { f with
      mt := (f.mt.set 0 (ss4Pos0 l p pad)).set 1 (ss4Pos1 l p pad)
      npos := 2
      pressure := if field p l.mfZ0 = 0 then 0 else l.twoPressure
      firstMp := flag p l.cont
      fingers := if flag p l.cont then 0 else 2
      isMp := false }

/-- POS(f) of a TWO packet (R202, R212). -/
def decodeSS4Two (l : SS4Layout) (s : State) : Decoded :=
  .pos (ss4TwoFields l s.opnd.pkt (s.desc.has .buttonpad) s.fields) none

/-- The fourth position is absent (R198, R203). -/
def ss4Absent (l : SS4Layout) (p : List Byte) (pad : Bool) : Bool := ss4Pos1 l p pad == ss4NoData l pad

/-- The fields of a MULTI packet (R203). -/
def ss4MultiFields (l : SS4Layout) (p : List Byte) (pad : Bool) (f : Fields) : Fields :=
  { f with
    mt := (f.mt.set 2 (ss4Pos0 l p pad)).set 3
      (if !flag p l.cont && ss4Absent l p pad then ⟨0, 0⟩ else ss4Pos1 l p pad)
    isMp := true
    firstMp := false
    fingers := if flag p l.cont then 5 else if ss4Absent l p pad then 3 else 4 }

/-- CONT(f, term = 1) of a MULTI packet (R203, R213). -/
def decodeSS4Multi (l : SS4Layout) (s : State) : Decoded :=
  .cont (ss4MultiFields l s.opnd.pkt (s.desc.has .buttonpad) s.fields) true .ss4

/-- DEC.V8.IDLE (R200). -/
def execDecV8Idle (s : State) : Out := runClass .v8 .idle .idle s

/-- DEC.V8.ONE (R201). -/
def execDecV8One (s : State) : Out := runDecoder .v8 .one (decodeSS4One s.cfg.layouts.v8) s

/-- DEC.V8.TWO (R202). -/
def execDecV8Two (s : State) : Out := runDecoder .v8 .two (decodeSS4Two s.cfg.layouts.v8) s

/-- DEC.V8.MULTI (R203). -/
def execDecV8Multi (s : State) : Out := runDecoder .v8 .multi (decodeSS4Multi s.cfg.layouts.v8) s

/-- DEC.V8.STICK (R204). -/
def execDecV8Stick (s : State) : Out := runDecoder .v8 .stick (decodeStick s.cfg.layouts.v8.stick) s

/-- DEC.V8.UNKNOWN (R205). -/
def execDecV8Unknown (s : State) : Out := runClass .v8 .unknown .unknown s

/-- DEC.SS4P.IDLE (R210). -/
def execDecSs4pIdle (s : State) : Out := runClass .ss4p .idle .idle s

/-- DEC.SS4P.ONE (R211). -/
def execDecSs4pOne (s : State) : Out := runDecoder .ss4p .one (decodeSS4One s.cfg.layouts.ss4p) s

/-- DEC.SS4P.TWO (R212). -/
def execDecSs4pTwo (s : State) : Out := runDecoder .ss4p .two (decodeSS4Two s.cfg.layouts.ss4p) s

/-- DEC.SS4P.MULTI (R213). -/
def execDecSs4pMulti (s : State) : Out := runDecoder .ss4p .multi (decodeSS4Multi s.cfg.layouts.ss4p) s

/-- DEC.SS4P.STICK (R214). -/
def execDecSs4pStick (s : State) : Out := runDecoder .ss4p .stick (decodeStick s.cfg.layouts.ss4p.stick) s

/-- DEC.SS4P.UNKNOWN (R215). -/
def execDecSs4pUnknown (s : State) : Out := runClass .ss4p .unknown .unknown s

end Sys2Proof.Machine
end

