-- ==== Sys2Proof/Machine/DecV1V2.lean ====
section
/-!
DEFINITION. Packet operations of V1 and V2 (41_decoders_v1_v6.md R130 to R136).
-/

namespace Sys2Proof.Machine

/-- The pressure of an absolute position packet: a gesture without finger forces it (R133). -/
def absPressure (l : AbsLayout) (p : List Byte) : Nat := tapPressure l (flag p l.ges) (flag p l.fin) (field p l.z)

/-- The fields of an absolute position packet (R133, R135). -/
def absFields (l : AbsLayout) (p : List Byte) (prevFin : Bool) (f : Fields) : Fields :=
  { f with
    st := ⟨coord p l.x, coord p l.y⟩
    pressure := absPressure l p
    npos := 0
    fingers := singleFingers (absPressure l p)
    left := flag p l.left
    right := flag p l.right
    middle := flag p l.middle
    ges := flag p l.ges
    fin := flag p l.fin
    tapDrag := tapDragEdge l (flag p l.ges) (flag p l.fin) prevFin
    firstMp := false
    isMp := false }

/-- POS(f) with the context write prev_fin <- fin (R133, R135). -/
def decodeAbs (l : AbsLayout) (s : State) : Decoded :=
  .pos (absFields l s.opnd.pkt s.ctx.prevFin s.fields) (some (flag s.opnd.pkt l.fin))

/-- A relative delta: a value above `above` is `span` less (R134). -/
def wrapDelta (v above span : Nat) : Int := if above < v then (v : Int) - span else v

/-- The fields of a V1 or V2 trackstick packet (R134, R136). -/
def absStickFields (l : AbsLayout) (p : List Byte) (f : Fields) : Fields :=
  { f with
    stickDx := wrapDelta (field p l.x) l.dxAbove l.dxSpan
    stickDy := -(wrapDelta (field p l.y) l.dyAbove l.dySpan)
    stickZ := coord p l.stickZ
    tsLeft := flag p l.left
    tsRight := flag p l.right
    tsMiddle := flag p l.middle }

/-- STICK(f) (R134, R136), whether or not the device has DUALPOINT: neither rule tests it, and R137 leaves the test to the V1 and
V2 classifiers. Where a configured classifier does not make it, 92 D18 would drop the packet: DEDUCED, unsafe (assumption 30). -/
def decodeAbsStick (l : AbsLayout) (s : State) : Decoded := .stick (absStickFields l s.opnd.pkt s.fields)

/-- DEC.V1.ONE (R133). -/
def execDecV1One (s : State) : Out := runDecoder .v1 .one (decodeAbs s.cfg.layouts.v1) s

/-- DEC.V1.STICK (R134). -/
def execDecV1Stick (s : State) : Out := runDecoder .v1 .stick (decodeAbsStick s.cfg.layouts.v1) s

/-- DEC.V2.ONE (R135). -/
def execDecV2One (s : State) : Out := runDecoder .v2 .one (decodeAbs s.cfg.layouts.v2) s

/-- DEC.V2.STICK (R136). -/
def execDecV2Stick (s : State) : Out := runDecoder .v2 .stick (decodeAbsStick s.cfg.layouts.v2) s

end Sys2Proof.Machine
end

