-- ==== Sys2Proof/Machine/DecV4.lean ====
section
/-!
DEFINITION. Packet operations of V4 (41_decoders_v1_v6.md R151 to R153).
-/

namespace Sys2Proof.Machine

/-- The fields of a V4 packet (R152, R153). -/
def v4Fields (l : V4Layout) (p : List Byte) (first : Bool) (f : Fields) : Fields :=
  { f with
    st := ⟨coord p l.stX, coord p l.stY⟩
    pressure := field p l.pressure
    left := flag p l.left
    right := flag p l.right
    npos := 0
    fingers := singleFingers (field p l.pressure)
    firstMp := first
    isMp := !first }

/-- POS(f) with first_mp = 1 (R152). -/
def decodeV4Sync (l : V4Layout) (s : State) : Decoded := .pos (v4Fields l s.opnd.pkt true s.fields) none

/-- CONT(f, term = (ctx.mp_fill = 2)): the third packet of a group terminates it (R153). -/
def decodeV4Cont (l : V4Layout) (s : State) : Decoded :=
  .cont (v4Fields l s.opnd.pkt false s.fields) (decide (s.ctx.mpFill = 2)) .v4

/-- DEC.V4.ONE (R152). -/
def execDecV4One (s : State) : Out := runDecoder .v4 .one (decodeV4Sync s.cfg.layouts.v4) s

/-- DEC.V4.MULTI (R153). -/
def execDecV4Multi (s : State) : Out := runDecoder .v4 .multi (decodeV4Cont s.cfg.layouts.v4) s

end Sys2Proof.Machine
end

