-- ==== Sys2Proof/Machine/DecV3.lean ====
section
/-!
DEFINITION. Packet operations of V3 (Pinnacle) and V3R (Rushmore) (41_decoders_v1_v6.md R140 to R149), over one layout type.
-/

namespace Sys2Proof.Machine

/-- The six buttons of a position packet (R142); the trackstick ones are gated by 40_dispatch.md R113. -/
def putButtons (l : ButtonLayout) (p : List Byte) (f : Fields) : Fields :=
  { f with
    left := flag p l.left
    right := flag p l.right
    middle := flag p l.middle
    tsLeft := flag p l.tsLeft
    tsRight := flag p l.tsRight
    tsMiddle := flag p l.tsMiddle }

/-- The fields of a position packet (R144). -/
def pinnacleFields (l : PinnacleLayout) (p : List Byte) (f : Fields) : Fields :=
  putButtons l.buttons p
    { f with
      firstMp := flag p l.firstMp
      isMp := false
      st := ⟨coord p l.stX, coord p l.stY⟩
      pressure := field p l.pressure
      npos := 0
      fingers := singleFingers (field p l.pressure) }

/-- POS(f) (R144, R147). -/
def decodePinnacle (l : PinnacleLayout) (s : State) : Decoded := .pos (pinnacleFields l s.opnd.pkt s.fields) none

/-- The fields of a bitmap continuation packet (R145, R148). -/
def pinnacleMapFields (l : PinnacleLayout) (g : Geometry) (p : List Byte) (f : Fields) : Fields :=
  { f with
    isMp := true
    firstMp := false
    fingers := maxField p l.fingers + l.fingersAdd
    xMap := maskBits (field p l.xMap) g.xBits
    yMap := maskBits (field p l.yMap) g.yBits }

/-- CONT(f, term = 1) (R145, R148). -/
def decodePinnacleMap (l : PinnacleLayout) (s : State) : Decoded :=
  .cont (pinnacleMapFields l s.cfg.geom s.opnd.pkt s.fields) true .bitmap

/-- DEC.V3.ONE (R144). -/
def execDecV3One (s : State) : Out := runDecoder .v3 .one (decodePinnacle s.cfg.layouts.v3) s

/-- DEC.V3.MULTI (R145). -/
def execDecV3Multi (s : State) : Out := runDecoder .v3 .multi (decodePinnacleMap s.cfg.layouts.v3) s

/-- DEC.V3.STICK (R146). -/
def execDecV3Stick (s : State) : Out := runDecoder .v3 .stick (decodeStick s.cfg.layouts.v3.stick) s

/-- DEC.V3R.ONE (R147). -/
def execDecV3rOne (s : State) : Out := runDecoder .v3r .one (decodePinnacle s.cfg.layouts.v3r) s

/-- DEC.V3R.MULTI (R148). -/
def execDecV3rMulti (s : State) : Out := runDecoder .v3r .multi (decodePinnacleMap s.cfg.layouts.v3r) s

/-- DEC.V3R.STICK (R149). -/
def execDecV3rStick (s : State) : Out := runDecoder .v3r .stick (decodeStick s.cfg.layouts.v3r.stick) s

end Sys2Proof.Machine
end

