-- ==== Sys2Proof/Machine/DecV5.lean ====
section
/-!
DEFINITION. Packet operations of V5, Dolphin (41_decoders_v1_v6.md R160 to R162).
-/

namespace Sys2Proof.Machine

/-- The pressure of a position packet (R161). -/
def dolphinPressure (l : DolphinLayout) (p : List Byte) : Nat :=
  if passesAll p l.noTouch then 0 else field p l.pressure

/-- The fields of a position packet (R161). -/
def dolphinFields (l : DolphinLayout) (p : List Byte) (f : Fields) : Fields :=
  putButtons l.buttons p
    { f with
      firstMp := flag p l.firstMp
      isMp := false
      st := ⟨coord p l.stX, coord p l.stY⟩
      pressure := dolphinPressure l p
      npos := 0
      fingers := singleFingers (dolphinPressure l p) }

/-- POS(f) (R161). -/
def decodeDolphin (l : DolphinLayout) (s : State) : Decoded := .pos (dolphinFields l s.opnd.pkt s.fields) none

/-- The fields of a bitmap continuation packet (R162). -/
def dolphinMapFields (l : DolphinLayout) (g : Geometry) (p : List Byte) (f : Fields) : Fields :=
  { f with
    isMp := true
    firstMp := false
    fingers := field p l.fingers
    yMap := maskBits (field p l.palm) g.yBits
    xMap := maskBits (field p l.palm >>> g.yBits) g.xBits }

/-- CONT(f, term = 1) (R162). -/
def decodeDolphinMap (l : DolphinLayout) (s : State) : Decoded :=
  .cont (dolphinMapFields l s.cfg.geom s.opnd.pkt s.fields) true .bitmap

/-- DEC.V5.ONE (R161). -/
def execDecV5One (s : State) : Out := runDecoder .v5 .one (decodeDolphin s.cfg.layouts.v5) s

/-- DEC.V5.MULTI (R162). -/
def execDecV5Multi (s : State) : Out := runDecoder .v5 .multi (decodeDolphinMap s.cfg.layouts.v5) s

end Sys2Proof.Machine
end

