-- ==== Sys2Proof/Machine/DecV6.lean ====
section
/-!
DEFINITION. Packet operations of V6 (41_decoders_v1_v6.md R170 to R172).
-/

namespace Sys2Proof.Machine

/-- The fields of a position packet (R171). -/
def v6Fields (l : V6Layout) (p : List Byte) (f : Fields) : Fields :=
  { f with
    st := ⟨coord p l.x, coord p l.y⟩
    pressure := field p l.z
    npos := 0
    fingers := singleFingers (field p l.z)
    left := flag p l.left
    right := flag p l.right }

/-- POS(f) (R171). -/
def decodeV6 (l : V6Layout) (s : State) : Decoded := .pos (v6Fields l s.opnd.pkt s.fields) none

/-- DEC.V6.ONE (R171). -/
def execDecV6One (s : State) : Out := runDecoder .v6 .one (decodeV6 s.cfg.layouts.v6) s

/-- DEC.V6.STICK (R172). -/
def execDecV6Stick (s : State) : Out := runDecoder .v6 .stick (decodeStick s.cfg.layouts.v6.stick) s

end Sys2Proof.Machine
end

