-- ==== Sys2Proof/Machine/DecV7.lean ====
section
/-!
DEFINITION. Packet operations of V7 (42_decoders_v7_ss4.md R180 to R190).
-/

namespace Sys2Proof.Machine

/-- m1 of a TWO packet before the y inversion: low x bits cleared, low y bits set, the false touch at the maximum cleared
(R182). -/
def v7SecondTwo (l : V7Layout) (x y : Nat) : Nat × Nat :=
  let x1 := clearBits x l.twoXClear
  let y1 := y ||| l.twoYSet
  if y1 = l.falseY ∧ x1 = l.falseX then (0, y1) else (x1, y1)

/-- m1 of a MULTI packet before the y inversion (R182). -/
def v7SecondMulti (l : V7Layout) (p : List Byte) (x y : Nat) : Nat × Nat :=
  (clearBits x l.multiXClear, clearBits y l.multiYClear ||| field p l.multiYTerms ||| l.multiYSet)

/-- Y axis inverted (R182). -/
def v7Invert (l : V7Layout) (v : Nat × Nat) : Pos := ⟨v.1, (l.yTop : Int) - v.2⟩

/-- The first position of COORD_V7 (R182). -/
def v7First (l : V7Layout) (p : List Byte) : Pos := v7Invert l (field p l.m0x, field p l.m0y)

/-- The second position of COORD_V7(p, TWO). -/
def v7Second (l : V7Layout) (p : List Byte) : Pos := v7Invert l (v7SecondTwo l (field p l.m1x) (field p l.m1y))

/-- The second position of COORD_V7(p, MULTI). -/
def v7SecondM (l : V7Layout) (p : List Byte) : Pos := v7Invert l (v7SecondMulti l p (field p l.m1x) (field p l.m1y))

/-- A position counts as present unless it is (0, 0) (R182). -/
def nonzero (m : Pos) : Bool := m.x != 0 || m.y != 0

/-- NZ(m0, m1) (R182). -/
def nzCount (a b : Pos) : Nat := (if nonzero a then 1 else 0) + (if nonzero b then 1 else 0)

/-- The finger count after BUTTONS_V7: on a BUTTONPAD device two bits count resting fingers (R183). -/
def v7Fingers (l : V7Layout) (p : List Byte) (pad : Bool) (n : Nat) : Nat :=
  if pad then n + (if flag p l.padFingerA then 1 else 0) + (if flag p l.padFingerB then 1 else 0) else n

/-- The positions after BUTTONS_V7: a single touch reported in the second slot moves to the first (R183). -/
def v7Positions (n : Nat) (a b : Pos) : Pos × Pos := if n = 1 ∧ a = ⟨0, 0⟩ then (b, ⟨0, 0⟩) else (a, b)

/-- f.npos (R183): the number of nonzero positions in the reference layout (93 G40). -/
def v7Npos (l : V7Layout) (a b : Pos) : Nat :=
  match l.npos with
  | .nonzero => nzCount a b
  | .both => 2

/-- The fields of a TWO or MULTI packet from its positions and finger count, through BUTTONS_V7 (R183, R186, R187). -/
def v7Fields (l : V7Layout) (p : List Byte) (pad : Bool) (a b : Pos) (n : Nat) (f : Fields) : Fields :=
  let fingers := v7Fingers l p pad n
  let m := v7Positions fingers a b
  { f with
    mt := (f.mt.set 0 m.1).set 1 m.2
    npos := v7Npos l m.1 m.2
    fingers := fingers
    pressure := field p l.pressure
    left := flag p l.left
    right := if pad then f.right else flag p l.right
    middle := if pad then f.middle else flag p l.middle
    firstMp := false
    isMp := false }

/-- POS(f) of a TWO packet (R186). -/
def decodeV7Two (l : V7Layout) (s : State) : Decoded :=
  let a := v7First l s.opnd.pkt
  let b := v7Second l s.opnd.pkt
  .pos (v7Fields l s.opnd.pkt (s.desc.has .buttonpad) a b (nzCount a b) s.fields) none

/-- POS(f) of a MULTI packet (R187). -/
def decodeV7Multi (l : V7Layout) (s : State) : Decoded :=
  let a := v7First l s.opnd.pkt
  let b := v7SecondM l s.opnd.pkt
  .pos (v7Fields l s.opnd.pkt (s.desc.has .buttonpad) a b (l.fingersBase + field s.opnd.pkt l.fingersMore) s.fields) none

/-- DEC.V7.IDLE (R185). -/
def execDecV7Idle (s : State) : Out := runClass .v7 .idle .idle s

/-- DEC.V7.TWO (R186). -/
def execDecV7Two (s : State) : Out := runDecoder .v7 .two (decodeV7Two s.cfg.layouts.v7) s

/-- DEC.V7.MULTI (R187). -/
def execDecV7Multi (s : State) : Out := runDecoder .v7 .multi (decodeV7Multi s.cfg.layouts.v7) s

/-- DEC.V7.NEW (R188). -/
def execDecV7New (s : State) : Out := runClass .v7 .new .drop s

/-- DEC.V7.STICK (R189). -/
def execDecV7Stick (s : State) : Out := runDecoder .v7 .stick (decodeStick s.cfg.layouts.v7.stick) s

/-- DEC.V7.UNKNOWN (R190). -/
def execDecV7Unknown (s : State) : Out := runClass .v7 .unknown .unknown s

end Sys2Proof.Machine
end

