-- ==== Sys2Proof/Machine/Dispatch.lean ====
section
/-!
DEFINITION. exec: one arm for every operation, each a direct call of its meaning.
-/

namespace Sys2Proof.Machine

def exec (i : Instr) (s : State) : Host.Outcome State Fault Refusal :=
  match i with
  | .ident => Sys2Proof.Machine.execIdent s
  | .reset => Sys2Proof.Machine.execReset s
  | .decV1One => Sys2Proof.Machine.execDecV1One s
  | .decV1Stick => Sys2Proof.Machine.execDecV1Stick s
  | .decV2One => Sys2Proof.Machine.execDecV2One s
  | .decV2Stick => Sys2Proof.Machine.execDecV2Stick s
  | .decV3One => Sys2Proof.Machine.execDecV3One s
  | .decV3Multi => Sys2Proof.Machine.execDecV3Multi s
  | .decV3Stick => Sys2Proof.Machine.execDecV3Stick s
  | .decV3rOne => Sys2Proof.Machine.execDecV3rOne s
  | .decV3rMulti => Sys2Proof.Machine.execDecV3rMulti s
  | .decV3rStick => Sys2Proof.Machine.execDecV3rStick s
  | .decV4One => Sys2Proof.Machine.execDecV4One s
  | .decV4Multi => Sys2Proof.Machine.execDecV4Multi s
  | .decV5One => Sys2Proof.Machine.execDecV5One s
  | .decV5Multi => Sys2Proof.Machine.execDecV5Multi s
  | .decV6One => Sys2Proof.Machine.execDecV6One s
  | .decV6Stick => Sys2Proof.Machine.execDecV6Stick s
  | .decV7Idle => Sys2Proof.Machine.execDecV7Idle s
  | .decV7Two => Sys2Proof.Machine.execDecV7Two s
  | .decV7Multi => Sys2Proof.Machine.execDecV7Multi s
  | .decV7New => Sys2Proof.Machine.execDecV7New s
  | .decV7Stick => Sys2Proof.Machine.execDecV7Stick s
  | .decV7Unknown => Sys2Proof.Machine.execDecV7Unknown s
  | .decV8Idle => Sys2Proof.Machine.execDecV8Idle s
  | .decV8One => Sys2Proof.Machine.execDecV8One s
  | .decV8Two => Sys2Proof.Machine.execDecV8Two s
  | .decV8Multi => Sys2Proof.Machine.execDecV8Multi s
  | .decV8Stick => Sys2Proof.Machine.execDecV8Stick s
  | .decV8Unknown => Sys2Proof.Machine.execDecV8Unknown s
  | .decSs4pIdle => Sys2Proof.Machine.execDecSs4pIdle s
  | .decSs4pOne => Sys2Proof.Machine.execDecSs4pOne s
  | .decSs4pTwo => Sys2Proof.Machine.execDecSs4pTwo s
  | .decSs4pMulti => Sys2Proof.Machine.execDecSs4pMulti s
  | .decSs4pStick => Sys2Proof.Machine.execDecSs4pStick s
  | .decSs4pUnknown => Sys2Proof.Machine.execDecSs4pUnknown s
  | .decV9 cls => Sys2Proof.Machine.execDecV9 cls s
  | .bitmap => Sys2Proof.Machine.execBitmap s
  | .track => Sys2Proof.Machine.execTrack s
  | .maFilter => Sys2Proof.Machine.execMaFilter s
  | .maReset => Sys2Proof.Machine.execMaReset s
  | .maOldest => Sys2Proof.Machine.execMaOldest s
  | .maNewest => Sys2Proof.Machine.execMaNewest s
  | .decayFilter => Sys2Proof.Machine.execDecayFilter s
  | .decayReset => Sys2Proof.Machine.execDecayReset s
  | .undecayFilter => Sys2Proof.Machine.execUndecayFilter s
  | .undecayReset => Sys2Proof.Machine.execUndecayReset s

end Sys2Proof.Machine
end

