-- ==== Sys2Proof/Machine/Fetch.lean ====
section
/-!
DEFINITION. The sequencer's first half of a transaction: take the oldest entry of the input port, make the checks of
40_dispatch.md R95 steps 1 to 6, and form OPSEL (30_encoding.md R72). There is no program counter and no instruction fetch
(10_state.md R21); this is what stands in its place.
-/

namespace Sys2Proof.Machine

/-- What taking a transaction leads to. -/
inductive Fetched where
  /-- Nothing more to do: no transaction is presented, or it ended before an OPSEL was formed. -/
  | ended (s : State)
  /-- An OPSEL is formed; `s` holds its operands. -/
  | run (w : Opsel) (s : State)
  deriving DecidableEq, Repr

/-- A PKT transaction up to the forming of OPSEL (40_dispatch.md R95 steps 1 to 7; check order 60_exceptions.md R302). A V9
packet forms its word with class code 0: it is refused before it is classified (assumption 19). The classifier is given the
capability set, as R95 step 6, R98 and 41 R131 say, though 20 R64 names only the family and the bytes: DEDUCED,
unsafe (assumption 26). A packet of no byte or of more than PKT_MAX, which 30 R70 does not know, meets the length check: DESIGN
CHOICE (assumption 25). -/
def fetchPkt (p : List Byte) (s : State) : Fetched :=
  let s1 := freshFields s
  if s.devState ≠ .ready then .ended (raiseError .unsupportedSignature s1)
  else if p.length ≠ s.cfg.pktLen.get s.desc.fam then .ended (raiseError .resync s1)
  else if byteAt p 0 &&& s.desc.mask0 ≠ s.desc.byte0 then .ended (raiseError .resync s1)
  else
    let s2 := { s1 with opnd := { Operands.none with pkt := p } }
    if s.desc.fam = .v9 then .run (packetOpsel .v9 0) s2
    else .run (packetOpsel s.desc.fam (classifyPacket (s.cfg.classify.get s.desc.fam) p s.desc.caps)) s2

/-- One transaction up to the forming of OPSEL. -/
def fetchTxn (t : Txn) (s : State) : Fetched :=
  match t with
  | .ident e7 ec => .run (mkOpsel 1 0 0) { s with opnd := { Operands.none with e7 := e7, ec := ec } }
  | .reset => .run (mkOpsel 2 0 0) { s with opnd := Operands.none }
  | .pkt p => fetchPkt p s
  | .seq w o => .run w { s with opnd := o }

/-- The oldest transaction is taken off the port. With none the block holds its state (60_exceptions.md R313). An instance
whose configuration breaks its constraints refuses every transaction (00_scope.md R19; 70_reset_and_hazards.md R321;
assumption 14). -/
def fetch (s : State) : Fetched :=
  match s.inbox with
  | [] => .ended s
  | t :: ts =>
    if s.cfg.valid then fetchTxn t { s with inbox := ts } else .ended (refuse { s with inbox := ts })

/-- The end of a transaction: its operands are gone (60_exceptions.md R295). -/
def retire (o : Out) : Out :=
  match o with
  | .next t => .next { t with opnd := Operands.none }
  | .fault f => .fault f
  | .refused r => .refused r

end Sys2Proof.Machine
end

