-- ==== Sys2Proof/Machine/Step.lean ====
section
/-!
DEFINITION. The step: one whole transaction (20_memory.md R57), and the presentation of one operation by its word.
-/

namespace Sys2Proof.Machine

/-- One transaction: take it, form OPSEL, perform the operation, retire. A reserved OPSEL is refused (30_encoding.md R80,
00_scope.md R19), which is a next state (assumption 13). -/
def step (s : State) : Host.Outcome State Fault Refusal :=
  match fetch s with
  | .ended t => .next t
  | .run w t =>
    match decodeOpsel w with
    | .ok i => retire (exec i t)
    | .error _ => .next { refuse t with opnd := Operands.none }

/-- `s` with the operation whose word is the low twelve bits of `w` presented at the head of the input port, its operands
zero: a packet of PKT_MAX zero bytes, zero signatures, empty bitmaps, no contacts, the unowned filter and sample 0. -/
def State.withFetchWord (s : State) (nbits w : Nat) : State :=
  { s with
    inbox := .seq (BitVec.ofNat 12 (w % 2 ^ nbits)) { Operands.none with pkt := List.replicate pktMax 0 } :: s.inbox }

end Sys2Proof.Machine
end

