-- ==== Sys2Proof/Safety.lean ====
section
/-!
DEFINITION. What the claims about the machine speak of: the invariant every step keeps, part by part, and which runs are the
spec's own (a host that presents only IDENT, PKT and RESET, 30_encoding.md R70), the constraints on a configuration.
-/

namespace Sys2Proof.Machine

/-- A moving average of window n is consistent (10_state.md R38; 45_filters.md R270): the buffer has n entries, count and
index stay in range, a window that is not full is filled from entry 0 on, and the sum is that of the samples it holds. -/
structure MaState.Consistent (n : Nat) (m : MaState) : Prop where
  size : m.buf.length = n
  count_le : m.count ≤ n
  index_lt : m.index < n
  filling : m.count < n → m.index = m.count
  total : m.sum = (m.buf.take m.count).sum

/-- A virtual finger is consistent (10_state.md R36; 44_tracker.md R248, R249): the position, pressure, button and miss counter of
a free one are 0, a touching one has missed at most HYST frames in a row. That a free finger's filters are reset is
`State.FreeFingersReset`, which a filter operation presented by word can break. -/
structure VFinger.Consistent (c : Cfg) (v : VFinger) : Prop where
  free_zero : v.state = .free → v.x = 0 ∧ v.y = 0 ∧ v.z = 0 ∧ v.button = false ∧ v.miss = 0
  miss_le : v.state = .touching → v.miss ≤ c.hyst
  fx : v.fx.ma.Consistent c.maWindow
  fy : v.fy.ma.Consistent c.maWindow

/-- The multi-packet state is consistent (10_state.md R27): a group is open exactly while the buffer holds a packet, the buffer
holds at most MP_CAP, and its byte memory is in canonical form. -/
structure Ctx.Consistent (x : Ctx) : Prop where
  memory : x.mpMem.wf
  fill_le : x.mpFill ≤ mpCap
  open_iff : x.mpOpen = true ↔ 0 < x.mpFill

/-- S.fields between transactions (10_state.md R33; 40_dispatch.md R108): counts in range, no multi-packet flag left. -/
structure Fields.Consistent (f : Fields) : Prop where
  fingers_le : f.fingers ≤ maxTouches
  npos_le : f.npos ≤ maxTouches
  not_multi : f.isMp = false
  not_first : f.firstMp = false

/-- S.status (60_exceptions.md R290, R301): error codes 6 and 7 are never written, a code stands with result Error, a frame is
an emitted report, and CapacityExceeded comes with its bit and its report. -/
structure Status.Consistent (t : Status) : Prop where
  code_le : t.err.toNat ≤ 5
  error_iff : t.result = .error ↔ t.err ≠ 0
  frame_emits : t.result = .frame → t.emit = true
  full_emits : t.err = 5 → t.cap = true ∧ t.emit = true

/-- S.report (40_dispatch.md R120): the touches stand in ascending tag order, each with touch = 1 and a tag of the pool. -/
structure Report.Consistent (r : Report) : Prop where
  ascending : (r.touches.map Touch.id).Pairwise (· < ·)
  tags : ∀ t ∈ r.touches, t.id < maxTouches ∧ t.touch = true
  fingers_le : r.fingers ≤ maxTouches

/-- The invariant of the machine. -/
structure State.Consistent (s : State) : Prop where
  ctx : s.ctx.Consistent
  fields : s.fields.Consistent
  pool : ∀ i : Fin 5, (s.vf[i]).Consistent s.cfg
  bench : s.bench.ma.Consistent s.cfg.maWindow
  status : s.status.Consistent
  report : s.report.Consistent

/-! ### What an operation leaves, in the terms of the rules

The statements about single operations speak of the state before (`s`) and after (`t`) through these. -/

/-- The tags of the fingers of a pool that are in a state, ascending. -/
def tagsIn (pool : Vector VFinger 5) (st : FingerState) : List (Fin 5) :=
  [0, 1, 2, 3, 4].filter fun i => decide (pool[i].state = st)

/-- The touches R120 lists for a pool: its Touching fingers in ascending tag order. -/
def reportedTouches (pool : Vector VFinger 5) : List Touch :=
  (tagsIn pool .touching).map fun i =>
    { x := pool[i].x, y := pool[i].y, pressure := pool[i].z, touch := true, id := i.val }

/-- A 3-bit button mask of R120: bit 0 left, bit 1 right, bit 2 middle. -/
def buttonBits (left right middle : Bool) : BitVec 3 := BitVec.ofNat 3 (left.toNat + 2 * right.toNat + 4 * middle.toNat)

/-- The state no packet operation writes: the configuration, the port and the operands, the identification (10_state.md R22,
R23, R28), the filter instance no finger owns, the refusal bit and the result of an internal operation. -/
structure KeepsDevice (s t : State) : Prop where
  cfg : t.cfg = s.cfg
  inbox : t.inbox = s.inbox
  opnd : t.opnd = s.opnd
  devState : t.devState = s.devState
  desc : t.desc = s.desc
  fwVersion : t.ctx.fwVersion = s.ctx.fwVersion
  bench : t.bench = s.bench
  refused : t.refused = s.refused
  ret : t.ret = s.ret

/-- The bitmap pairing state stands (10_state.md R29). -/
structure KeepsPairing (s t : State) : Prop where
  valid : t.ctx.bmPrevValid = s.ctx.bmPrevValid
  prev0 : t.ctx.bmPrev0 = s.ctx.bmPrev0
  prev1 : t.ctx.bmPrev1 = s.ctx.bmPrev1
  orient : t.ctx.bmOrient = s.ctx.bmOrient

/-- Every byte of the multi-packet buffer and every entry's fields stand (20_memory.md R52). -/
structure KeepsBuffer (s t : State) : Prop where
  bytes : ∀ a, t.ctx.mpMem.read a = s.ctx.mpMem.read a
  entries : t.ctx.mpFields = s.ctx.mpFields

/-- Entry j of the multi-packet buffer takes packet p with fields f, byte k at mpAddr j k; every other byte and entry stands
(20_memory.md R52). That a byte of the entry past the packet's end is 0x00, as `byteAt` reads it, is the model's choice
(assumption 6). -/
structure StoresEntry (j : Nat) (p : List Byte) (f : Fields) (s t : State) : Prop where
  stored : ∀ k, k < pktMax → t.ctx.mpMem.read (mpAddr j k) = byteAt p k
  bytes : ∀ a, a < mpAddr j 0 ∨ mpAddr j 0 + pktMax ≤ a → t.ctx.mpMem.read a = s.ctx.mpMem.read a
  entry : ∀ h : j < 3, t.ctx.mpFields[j] = f
  entries : ∀ i, ∀ h : i < 3, i ≠ j → t.ctx.mpFields[i] = s.ctx.mpFields[i]

/-- No multi-packet group is open (40_dispatch.md R100, R105). -/
structure GroupClosed (t : State) : Prop where
  notOpen : t.ctx.mpOpen = false
  empty : t.ctx.mpFill = 0

/-- A group that was open is closed, and nothing else happens to the multi-packet state (40_dispatch.md R100). -/
structure AbandonsGroup (s t : State) : Prop where
  notOpen : t.ctx.mpOpen = false
  fill : t.ctx.mpFill = if s.ctx.mpOpen = true then 0 else s.ctx.mpFill

/-- The pool, the report and the output registers stand, and no error is recorded: result Silent. -/
structure StaysSilent (s t : State) : Prop where
  vf : t.vf = s.vf
  report : t.report = s.report
  status : t.status = ⟨.silent, 0, false, false⟩

/-- FRAME (40_dispatch.md R110, R115, R120, R121; 60_exceptions.md R301): the fields g, with `full` saying that a finger count
above MAX_TOUCHES was cut down, the tracker stepped by the contacts of g (R114), and the report of both. -/
structure ShowsFrame (fam : Family) (g : Fields) (full : Bool) (s t : State) : Prop where
  fields : t.fields = g
  pool : t.vf = (trackPool s.cfg (contactsOf g) (g.left || g.right || g.middle) s.vf).1
  status :
    t.status =
      if full || (trackPool s.cfg (contactsOf g) (g.left || g.right || g.middle) s.vf).2 then ⟨.error, 5, true, true⟩
      else ⟨.frame, 0, false, true⟩
  touches : t.report.touches = reportedTouches t.vf
  fingers : t.report.fingers = g.fingers
  tpButtons : t.report.tpButtons = buttonBits g.left g.right g.middle
  tsButtons :
    t.report.tsButtons =
      if tsFamily fam ∧ .tsButtons ∈ s.desc.caps then buttonBits g.tsLeft g.tsRight g.tsMiddle else s.report.tsButtons
  stick : t.report.stickDx = 0 ∧ t.report.stickDy = 0 ∧ t.report.stickZ = 0
  tapDrag : t.report.tapDrag = g.tapDrag

/-- PROCESS(STICK(f)) (40_dispatch.md R111, R120, R121): the fields g and their report; the tracker does not step. -/
structure ShowsStick (g : Fields) (s t : State) : Prop where
  fields : t.fields = g
  pool : t.vf = s.vf
  status : t.status = ⟨.frame, 0, false, true⟩
  touches : t.report.touches = reportedTouches s.vf
  fingers : t.report.fingers = g.fingers
  tpButtons : t.report.tpButtons = s.report.tpButtons
  tsButtons : t.report.tsButtons = buttonBits g.tsLeft g.tsRight g.tsMiddle
  stick : t.report.stickDx = g.stickDx ∧ t.report.stickDy = g.stickDy ∧ t.report.stickZ = g.stickZ
  tapDrag : t.report.tapDrag = g.tapDrag

/-- PROCESS(IDLE) of class code `cls` (40_dispatch.md R102): the fields zero but the class, the tracker stepped with no contacts,
a report only if IDLE_REPORT = Emit; `res` and `err` are the result and code with which the transaction ends. -/
structure ShowsIdle (fam : Family) (cls : Nibble) (res : TxResult) (err : BitVec 3) (s t : State) : Prop where
  fields : t.fields = { Fields.zero with cls := cls }
  pool : t.vf = (trackPool s.cfg [] false s.vf).1
  status : t.status = ⟨res, err, false, s.cfg.idleReport == .emit⟩
  suppressed : s.cfg.idleReport = .suppress → t.report = s.report
  emitted :
    s.cfg.idleReport = .emit →
      t.report =
        { touches := reportedTouches t.vf, fingers := 0, tpButtons := 0
          tsButtons := if tsFamily fam ∧ .tsButtons ∈ s.desc.caps then 0 else s.report.tsButtons
          stickDx := 0, stickDy := 0, stickZ := 0, tapDrag := false }

/-- CTX_RESET (10_state.md R31) on the context, and nothing else of it: the stored packets and the firmware version stand. -/
structure ContextReset (s t : State) : Prop where
  prevFin : t.ctx.prevFin = false
  closed : GroupClosed t
  invalid : t.ctx.bmPrevValid = false
  orient : t.ctx.bmOrient = s.cfg.initOrient
  prev : t.ctx.bmPrev0 = s.ctx.bmPrev0 ∧ t.ctx.bmPrev1 = s.ctx.bmPrev1
  buffer : KeepsBuffer s t

/-- The trackstick-button bits of a layout as a touchpad packet keeps them: 0 without TS_BUTTONS (40_dispatch.md R113). -/
def keptTs (d : Descriptor) (b : Bool) : Bool := decide (.tsButtons ∈ d.caps) && b

/-- DIST of two points by DIST_METRIC, over the integers (44_tracker.md R243). -/
def metricOf (m : Metric) (ax ay bx byy : Int) : Int :=
  match m with
  | .squaredEuclidean => (ax - bx) ^ 2 + (ay - byy) ^ 2
  | .manhattan => max (ax - bx) (bx - ax) + max (ay - byy) (byy - ay)

/-- A maximal run of consecutive 1 bits among the low `bits` bits of m, from bit lo to bit hi (41_decoders_v1_v6.md R154). -/
structure MaximalRun (bits m lo hi : Nat) : Prop where
  order : lo ≤ hi
  inside : hi < bits
  ones : ∀ i, lo ≤ i → i ≤ hi → m.testBit i = true
  left : lo = 0 ∨ m.testBit (lo - 1) = false
  right : hi + 1 = bits ∨ m.testBit (hi + 1) = false

/-- RUNS: n is the number of maximal runs (41_decoders_v1_v6.md R154). -/
def CountsRuns (bits m n : Nat) : Prop :=
  ∃ L : List (Nat × Nat), L.Nodup ∧ (∀ q, q ∈ L ↔ MaximalRun bits m q.1 q.2) ∧ L.length = n

/-- A filter instance of kind SMOOTH_KIND in reset state (10_state.md R38; 45_filters.md R271, R275). -/
structure FilterIsReset (c : Cfg) (f : Filter) : Prop where
  average : c.smooth = .movingAverage → f.ma.count = 0 ∧ f.ma.sum = 0 ∧ f.ma.index = 0
  decay : c.smooth = .decay → f.decay.lastvalid = false

/-- The filters of every free finger are reset (10_state.md R36; 44_tracker.md R249). -/
def State.FreeFingersReset (s : State) : Prop :=
  ∀ i : Fin 5, s.vf[i].state = .free → FilterIsReset s.cfg s.vf[i].fx ∧ FilterIsReset s.cfg s.vf[i].fy

/-- SMOOTH(f, x), the FILTER operation of kind SMOOTH_KIND (44_tracker.md R240; 45_filters.md R270, R274): g is the instance
afterwards and v the value returned. -/
structure Smooths (c : Cfg) (f : Filter) (x : Int) (g : Filter) (v : Int) : Prop where
  average :
    c.smooth = .movingAverage →
      let n := c.maWindow
      let m := f.ma
      let sum := m.sum + x - (if m.count = n then m.buf.getD m.index 0 else 0)
      let count := if m.count < n then m.count + 1 else m.count
      g = { f with ma := ⟨m.buf.set m.index x, count, sum, if m.index + 1 = n then 0 else m.index + 1⟩ } ∧ v = sum.tdiv count
  decay :
    c.smooth = .decay →
      g = { f with decay := ⟨v, true⟩ } ∧
        v =
          if f.decay.lastvalid = true then
            (x * c.decayN1).tdiv c.decayD + (f.decay.last * c.decayN2).tdiv c.decayD
          else x

/-- FILTER_RESET, the RESET operation of kind SMOOTH_KIND (44_tracker.md R240; 45_filters.md R271, R275): g is f afterwards. -/
structure Resets (c : Cfg) (f g : Filter) : Prop where
  average : c.smooth = .movingAverage → g = { f with ma := ⟨f.ma.buf, 0, 0, 0⟩ }
  decay : c.smooth = .decay → g = { f with decay := ⟨f.decay.last, false⟩ }

/-- BIND (44_tracker.md R240, R245): w is a Touching finger updated by contact k, its coordinates through the filters fx and fy,
pressure and button bit as they are, the miss counter 0. -/
structure Binds (c : Cfg) (k : Contact) (b : Bool) (fx fy : Filter) (w : VFinger) : Prop where
  state : w.state = .touching
  x : Smooths c fx k.x w.fx w.x
  y : Smooths c fy k.y w.fy w.y
  z : w.z = k.z
  button : w.button = b
  miss : w.miss = 0

/-- A free finger v allocated to contact k as w (44_tracker.md R245, R246): its filters are reset, then it is bound, so that its
first position is the sample itself. -/
structure Allocates (c : Cfg) (k : Contact) (b : Bool) (v w : VFinger) : Prop where
  bound : ∃ fx fy, Resets c v.fx fx ∧ Resets c v.fy fy ∧ Binds c k b fx fy w
  first : 1 ≤ c.maWindow → w.x = k.x ∧ w.y = k.y

/-- RELEASE (44_tracker.md R240, R249): w is v released. -/
structure Releases (c : Cfg) (v w : VFinger) : Prop where
  state : w.state = .free
  zero : w.x = 0 ∧ w.y = 0 ∧ w.z = 0 ∧ w.button = false ∧ w.miss = 0
  fx : Resets c v.fx w.fx
  fy : Resets c v.fy w.fy

/-- What step 3 does to an unmatched Touching finger v (44_tracker.md R248): a grace frame, or, after HYST of them, release. -/
def Ages (c : Cfg) (v w : VFinger) : Prop :=
  (v.miss < c.hyst ∧ w = { v with miss := v.miss + 1 }) ∨ (c.hyst ≤ v.miss ∧ Releases c v w)

/-- DIST(v, k): from the finger's smoothed position (44_tracker.md R242, R243). -/
def fingerGap (c : Cfg) (v : VFinger) (k : Contact) : Int := metricOf c.metric v.x v.y k.x k.y

/-- A candidate pair: an unmatched finger and an unmatched contact within MATCH_MAX_DIST (44_tracker.md R240, R244). -/
structure IsCandidate (c : Cfg) (pool : Vector VFinger 5) (uv : List (Fin 5)) (uc : List Contact) (i : Fin 5) (k : Contact) :
    Prop where
  finger : i ∈ uv
  contact : k ∈ uc
  near : ∀ l, c.matchMaxDist = some l → fingerGap c pool[i] k ≤ l

/-- Step 1 of TRACK (44_tracker.md R240, R242): `ps` are the pairs matched one after another, each the least candidate by
distance, then slot, then tag, of the fingers and contacts still unmatched, until no candidate is left; uv' and uc' stay
unmatched. -/
inductive GreedyMatching (c : Cfg) (pool : Vector VFinger 5) :
    List (Fin 5) → List Contact → List (Fin 5 × Contact) → List (Fin 5) → List Contact → Prop where
  | done (uv : List (Fin 5)) (uc : List Contact) (none : ∀ i k, ¬IsCandidate c pool uv uc i k) :
      GreedyMatching c pool uv uc [] uv uc
  | pair (uv : List (Fin 5)) (uc : List Contact) (i : Fin 5) (k : Contact) (ps : List (Fin 5 × Contact)) (uv' : List (Fin 5))
      (uc' : List Contact) (candidate : IsCandidate c pool uv uc i k)
      (least :
        ∀ j h, IsCandidate c pool uv uc j h →
          fingerGap c pool[i] k < fingerGap c pool[j] h ∨
            (fingerGap c pool[i] k = fingerGap c pool[j] h ∧ (k.slot < h.slot ∨ (k.slot = h.slot ∧ i ≤ j))))
      (rest : GreedyMatching c pool (uv.erase i) (uc.erase k) ps uv' uc') :
      GreedyMatching c pool uv uc ((i, k) :: ps) uv' uc'

/-- Step 2 of TRACK (44_tracker.md R240, R246, R247) from pool to pool': the contacts `us` in turn each take the lowest tag that
was free before the frame and is not yet taken; a contact that finds none is dropped, which `cap` says. -/
structure AllocatesInOrder (c : Cfg) (b : Bool) (us : List Contact) (pool pool' : Vector VFinger 5) (cap : Bool) : Prop where
  takes :
    ∀ (n : Nat) (k : Contact) (i : Fin 5), us[n]? = some k → (tagsIn pool .free)[n]? = some i →
      Allocates c k b pool[i] pool'[i]
  stays : ∀ (n : Nat) (i : Fin 5), us.length ≤ n → (tagsIn pool .free)[n]? = some i → pool'[i] = pool[i]
  dropped : cap = true ↔ (tagsIn pool .free).length < us.length

/-- A virtual finger as reset leaves it (70_reset_and_hazards.md R320). -/
structure FingerIsReset (c : Cfg) (v : VFinger) : Prop where
  state : v.state = .free
  x : v.x = 0
  y : v.y = 0
  z : v.z = 0
  button : v.button = false
  miss : v.miss = 0
  fx : FilterIsReset c v.fx
  fy : FilterIsReset c v.fy

/-- RESET_ALL (70_reset_and_hazards.md R320), apart from dev_state, the firmware version and the status, which RESET and IDENT
set differently; the configuration, the port, the stored packets and the refusal bit stand. -/
structure AllReset (s t : State) : Prop where
  cfg : t.cfg = s.cfg
  inbox : t.inbox = s.inbox
  opnd : t.opnd = s.opnd
  refused : t.refused = s.refused
  prevFin : t.ctx.prevFin = false
  closed : GroupClosed t
  invalid : t.ctx.bmPrevValid = false
  orient : t.ctx.bmOrient = s.cfg.initOrient
  buffer : KeepsBuffer s t
  prev : t.ctx.bmPrev0 = s.ctx.bmPrev0 ∧ t.ctx.bmPrev1 = s.ctx.bmPrev1
  fields : t.fields = Fields.zero
  fingers : ∀ i : Fin 5, FingerIsReset s.cfg t.vf[i]
  report : t.report = ⟨[], 0, 0, 0, 0, 0, 0, false⟩

/-- The operation a filter instance suffers: instance i becomes f, every other instance stands (45_filters.md R278). -/
structure FilterSet (i : Inst) (f : Filter) (s t : State) : Prop where
  this : getInst t i = f
  others : ∀ j, j ≠ i → getInst t j = getInst s j
  fingers : ∀ k : Fin 5,
    t.vf[k].state = s.vf[k].state ∧ t.vf[k].x = s.vf[k].x ∧ t.vf[k].y = s.vf[k].y ∧ t.vf[k].z = s.vf[k].z ∧
      t.vf[k].button = s.vf[k].button ∧ t.vf[k].miss = s.vf[k].miss

/-- Everything but the pool, the free filter instance and the result of an internal operation stands. -/
structure KeepsAllButFilters (s t : State) : Prop where
  cfg : t.cfg = s.cfg
  inbox : t.inbox = s.inbox
  opnd : t.opnd = s.opnd
  devState : t.devState = s.devState
  desc : t.desc = s.desc
  ctx : t.ctx = s.ctx
  fields : t.fields = s.fields
  status : t.status = s.status
  report : t.report = s.report
  refused : t.refused = s.refused

/-- A transaction the spec's host can present: a packet has 1 to PKT_MAX bytes (30_encoding.md R70). -/
def Txn.fromHost : Txn → Bool
  | .ident _ _ => true
  | .pkt p => decide (1 ≤ p.length) && decide (p.length ≤ pktMax)
  | .reset => true
  | .seq _ _ => false

/-- Every transaction on the input port is one the spec's host can present. -/
def State.hostOnly (s : State) : Bool := s.inbox.all Txn.fromHost

/-- The class codes 30_encoding.md R79 lists for a family. -/
def classCodes : Family → List Nat
  | .v1 | .v2 | .v6 => [1, 5]
  | .v3 | .v3r => [1, 3, 5]
  | .v4 | .v5 => [1, 3]
  | .v7 => [0, 2, 3, 4, 5, 6]
  | .v8 | .ss4p => [0, 1, 2, 3, 5, 6]
  | .v9 => [0, 1, 2, 3, 4, 5, 6]

/-- The constraints on a configuration, written out. -/
structure MeetsConstraints (c : Cfg) : Prop where
  /-- X_BITS and Y_BITS (00_scope.md R9). -/
  xBits : 1 ≤ c.geom.xBits ∧ c.geom.xBits ≤ 32
  yBits : 1 ≤ c.geom.yBits ∧ c.geom.yBits ≤ 32
  /-- The filter parameters (45_filters.md R279). -/
  window : 1 ≤ c.maWindow
  decayN1 : 1 ≤ c.decayN1
  decayN2 : 0 ≤ c.decayN2
  decayD : 1 ≤ c.decayD
  /-- No two entries of one signature, no reserved family code (70_reset_and_hazards.md R321; 30_encoding.md R73). -/
  signatures : c.registry.Pairwise fun a b => a.sig ≠ b.sig
  tags : ∀ e ∈ c.registry, 1 ≤ e.tag.toNat ∧ e.tag.toNat ≤ 11
  /-- A packet has 1 to PKT_MAX bytes (30_encoding.md R70). -/
  pktLen : ∀ f, 1 ≤ c.pktLen.get f ∧ c.pktLen.get f ≤ 8
  /-- The classifier returns classes of the family only (30_encoding.md R80). Every line of it counts, also one that no packet
  reaches: the model's reading (assumption 14). -/
  classes : ∀ f, f ≠ .v9 →
    (c.classify.get f).otherwise.toNat ∈ classCodes f ∧ ∀ r ∈ (c.classify.get f).rules, r.cls.toNat ∈ classCodes f
  /-- Layout and classifier read bytes below PKT_LEN only (20_memory.md R51; assumption 14). -/
  reads : ∀ f, f ≠ .v9 → c.layouts.reach f ≤ c.pktLen.get f ∧ (c.classify.get f).reach ≤ c.pktLen.get f
  /-- No stick divisor is 0 (00_scope.md R12); that none is negative is the model's (assumption 14). -/
  divisors : ∀ l ∈ [c.layouts.v3.stick, c.layouts.v3r.stick, c.layouts.v6.stick, c.layouts.v7.stick, c.layouts.v8.stick,
    c.layouts.ss4p.stick], 1 ≤ l.xDiv ∧ 1 ≤ l.yDiv
  /-- V4's bitmap terms read collected bytes only: the model's choice (assumption 24). -/
  maps : c.layouts.v4.mapReach ≤ 3 * c.layouts.v4.mapBytes.length

/-- A step that is safe: it answers a next state. -/
def completes (o : Out) : Prop := ∃ t, o = .next t

end Sys2Proof.Machine
end

