-- ==== Sys2Proof/Certificates/Slice0/Obligations.lean ====
section
/-!
DEFINITION. The statements for the provers. Each docstring names the rule of spec/ it formalises, or says that it rests on a
choice of the model and names the assumption.
-/

open Sys2Proof Sys2Proof.Machine

/-! ### Words and operations -/

/-- The two bytes of every operation's word, whatever follows them, decode to that operation, and so does its word numbered
as opcode_table.json numbers bits. The byte order is the model's (assumption 20). -/
def Obligations.WordsRoundTrip : Prop :=
  ∀ i : Instr, i.wellFormed = true →
    (∀ rest, decodeBytes (encodeBytes i ++ rest) = .ok i) ∧
    ∀ nbits, 12 ≤ nbits → decodeTableWord nbits (encode i).toNat = some i

/-- R79, R80: every word has at most one meaning. A word decodes to an operation exactly if the operation is one of the table
and the word is its word. -/
def Obligations.EveryWordHasOneMeaning : Prop :=
  ∀ (w : Opsel) (i : Instr), decodeOpsel w = .ok i ↔ i.wellFormed = true ∧ encode i = w

/-- R80: the reserved words, as the rule lists them by KIND, A and B; the legal pairs of KIND 0 are the table of R79. -/
def Obligations.ReservedWordsAreRejected : Prop :=
  ∀ kind a b : Nat, kind < 16 → a < 16 → b < 16 →
    ((∃ r, decodeOpsel (BitVec.ofNat 12 (256 * kind + 16 * a + b)) = .error r) ↔
      6 ≤ kind ∨
      (kind = 0 ∧
        (a = 0 ∨ 0xC ≤ a ∨ 7 ≤ b ∨ (a, b) ∉
          [(1, 1), (1, 5), (2, 1), (2, 5), (3, 1), (3, 3), (3, 5), (4, 1), (4, 3), (4, 5), (5, 1), (5, 3), (6, 1), (6, 3),
           (7, 1), (7, 5), (8, 0), (8, 2), (8, 3), (8, 4), (8, 5), (8, 6), (9, 0), (9, 1), (9, 2), (9, 3), (9, 5), (9, 6),
           (10, 0), (10, 1), (10, 2), (10, 3), (10, 5), (10, 6),
           (11, 0), (11, 1), (11, 2), (11, 3), (11, 4), (11, 5), (11, 6)])) ∨
      (1 ≤ kind ∧ kind ≤ 4 ∧ (a ≠ 0 ∨ b ≠ 0)) ∨
      (kind = 5 ∧ (3 ≤ a ∨ 4 ≤ b ∨ (a ≠ 0 ∧ 2 ≤ b))))

/-- R79: words written out from the opcode table decode to the operations they stand for. -/
def Obligations.WordsOfTheTableDecode : Prop :=
  decodeOpsel 0x100 = .ok .ident ∧ decodeOpsel 0x200 = .ok .reset ∧ decodeOpsel 0x011 = .ok .decV1One ∧
    decodeOpsel 0x053 = .ok .decV4Multi ∧ decodeOpsel 0x082 = .ok .decV7Two ∧ decodeOpsel 0x0A5 = .ok .decSs4pStick ∧
    decodeOpsel 0x0B4 = .ok (.decV9 4) ∧ decodeOpsel 0x300 = .ok .bitmap ∧ decodeOpsel 0x400 = .ok .track ∧
    decodeOpsel 0x503 = .ok .maNewest ∧ decodeOpsel 0x511 = .ok .decayReset ∧ decodeOpsel 0x520 = .ok .undecayFilter

/-! ### The step -/

/-- R72, R57: where taking a transaction forms a word, the step is the operation of that word, its operands gone afterwards
(R295); a reserved word is refused (R19, assumption 13). R70, R90, R320: on an instance with a valid configuration an IDENT
transaction runs IDENT with its E7 and EC reports as the operands, a RESET transaction runs RESET, and both end in a next state;
an operation presented by word (assumption 10) forms that word with its operands. -/
def Obligations.StepRunsTheDecodedOperation : Prop :=
  (∀ (s t : State) (w : Opsel), fetch s = .run w t →
    (∀ i u, decodeOpsel w = .ok i → exec i t = .next u → step s = .next { u with opnd := {} }) ∧
    (∀ i f, decodeOpsel w = .ok i → exec i t = .fault f → step s = .fault f) ∧
    (∀ r, decodeOpsel w = .error r →
      step s = .next { t with refused := true, status := ⟨.refused, 0, false, false⟩, opnd := {} })) ∧
  ∀ (s : State) (ts : List Txn), s.cfg.valid = true →
    (∀ e7 ec, s.inbox = .ident e7 ec :: ts →
      ∃ u, exec .ident { s with inbox := ts, opnd := { e7 := e7, ec := ec } } = .next u ∧ step s = .next { u with opnd := {} }) ∧
    (s.inbox = .reset :: ts →
      ∃ u, exec .reset { s with inbox := ts, opnd := {} } = .next u ∧ step s = .next { u with opnd := {} }) ∧
    ∀ w o, s.inbox = .seq w o :: ts → fetch s = .run w { s with inbox := ts, opnd := o }

/-- R95: a packet that passes the checks of steps 2 to 5 runs the operation of its family and of the class its classifier
returns, on fresh fields and status; the configuration constraints (R80) make that a legal operation. -/
def Obligations.PacketRunsItsOperation : Prop :=
  ∀ (s : State) (p : List Byte) (ts : List Txn),
    s.cfg.valid = true → s.inbox = .pkt p :: ts → s.devState = .ready → p.length = s.cfg.pktLen.get s.desc.fam →
    byteAt p 0 &&& s.desc.mask0 = s.desc.byte0 → s.desc.fam ≠ .v9 →
    ∃ k i u,
      classifyPacket (s.cfg.classify.get s.desc.fam) p s.desc.caps = k.code ∧
      packetInstr s.desc.fam k = some i ∧
      exec i { s with inbox := ts, fields := {}, status := ⟨.silent, 0, false, false⟩, opnd := { pkt := p } } = .next u ∧
      step s = .next { u with opnd := {} }

/-- R292: a packet to an instance that is not Ready ends with UnsupportedSignature, whatever the packet: nothing changes but
the zeroed fields and the status (the packet is taken off the port). -/
def Obligations.PacketBeforeIdentification : Prop :=
  ∀ (s : State) (p : List Byte) (ts : List Txn),
    s.cfg.valid = true → s.inbox = .pkt p :: ts → s.devState = .unidentified ∨ s.devState = .failed →
    step s = .next { s with inbox := ts, fields := {}, status := ⟨.error, 1, false, false⟩ }

/-- R296, R96, R97: a packet of the wrong length or with the wrong first byte ends with Resync: nothing changes but the zeroed
fields and the status. -/
def Obligations.ResyncChangesNothing : Prop :=
  ∀ (s : State) (p : List Byte) (ts : List Txn),
    s.cfg.valid = true → s.inbox = .pkt p :: ts → s.devState = .ready →
    p.length ≠ s.cfg.pktLen.get s.desc.fam ∨ byteAt p 0 &&& s.desc.mask0 ≠ s.desc.byte0 →
    step s = .next { s with inbox := ts, fields := {}, status := ⟨.error, 2, false, false⟩ }

/-- R178: DEC.V9.* of every class is refused after the fresh fields, and a V9 packet that passes byte-0 validation ends so. That
the rest of the state stays as it was is the model's choice (R19, assumption 13). -/
def Obligations.V9IsRefused : Prop :=
  (∀ (cls : Nibble) (s : State),
    exec (.decV9 cls) s = .next { s with fields := {}, status := ⟨.refused, 0, false, false⟩, refused := true }) ∧
  ∀ (s : State) (p : List Byte) (ts : List Txn),
    s.cfg.valid = true → s.inbox = .pkt p :: ts → s.devState = .ready → p.length = s.cfg.pktLen.get s.desc.fam →
    byteAt p 0 &&& s.desc.mask0 = s.desc.byte0 → s.desc.fam = .v9 →
    step s = .next { s with inbox := ts, fields := {}, status := ⟨.refused, 0, false, false⟩, refused := true, opnd := {} }

/-- R51: a packet operation presented with fewer bytes than its family's layout reads stops with the fault of an access outside
the packet, which the checks of R95 keep from happening in a transaction. The fault is the model's choice (assumption 18). -/
def Obligations.ShortPacketsFault : Prop :=
  ∀ (s : State) (i : Instr) (fam : Family),
    (i, fam) ∈
      [(Instr.decV1One, Family.v1), (.decV1Stick, .v1), (.decV2One, .v2), (.decV2Stick, .v2), (.decV3One, .v3),
       (.decV3Multi, .v3), (.decV3Stick, .v3), (.decV3rOne, .v3r), (.decV3rMulti, .v3r), (.decV3rStick, .v3r),
       (.decV4One, .v4), (.decV4Multi, .v4), (.decV5One, .v5), (.decV5Multi, .v5), (.decV6One, .v6), (.decV6Stick, .v6),
       (.decV7Two, .v7), (.decV7Multi, .v7), (.decV7Stick, .v7), (.decV8One, .v8), (.decV8Two, .v8), (.decV8Multi, .v8),
       (.decV8Stick, .v8), (.decSs4pOne, .ss4p), (.decSs4pTwo, .ss4p), (.decSs4pMulti, .ss4p), (.decSs4pStick, .ss4p)] →
    s.opnd.pkt.length < s.cfg.layouts.reach fam → exec i s = .fault .pktAddress

/-- R9, R12, R19, R51, R70, R80, R279, R321: the check of a configuration passes exactly if it meets the constraints, which
`MeetsConstraints` writes out, and an instance whose configuration breaks any of them refuses every transaction. That the refusal
falls on each transaction and leaves the rest as it was, and what of the constraints goes beyond the rules, is the model's choice
(assumptions 13, 14 and 24). -/
def Obligations.InvalidConfigurationRefuses : Prop :=
  (∀ c : Cfg, c.valid = true ↔ MeetsConstraints c) ∧
  ∀ (s : State) (x : Txn) (ts : List Txn), ¬MeetsConstraints s.cfg → s.inbox = x :: ts →
    step s = .next { s with inbox := ts, status := ⟨.refused, 0, false, false⟩, refused := true }

/-- R313: with nothing presented the block holds its state. -/
def Obligations.NothingHappensBetweenTransactions : Prop := ∀ s : State, s.inbox = [] → step s = .next s

/-! ### Identification and reset -/

/-- R91: lookup returns a registry entry exactly if its three signature bytes are the given ones, and none for every other
signature. -/
def Obligations.RegistryLookupIsExact : Prop :=
  ∀ (reg : List RegEntry) (k : Sig), registryValid reg = true →
    (∀ e, lookup k reg = some e ↔ e ∈ reg ∧ e.sig.b0 = k.b0 ∧ e.sig.b1 = k.b1 ∧ e.sig.b2 = k.b2) ∧
    (lookup k reg = none ↔ ∀ e ∈ reg, ¬(e.sig.b0 = k.b0 ∧ e.sig.b1 = k.b1 ∧ e.sig.b2 = k.b2))

/-- R90: IDENT of a registered signature resets everything, then selects the entry's descriptor, keeps the EC report as the
firmware version and makes the instance Ready. -/
def Obligations.IdentSelectsTheDescriptor : Prop :=
  ∀ (s : State) (e : RegEntry) (f : Family),
    registryValid s.cfg.registry = true → e ∈ s.cfg.registry → e.sig = s.opnd.e7 → e.tag = f.code →
    ∃ t, exec .ident s = .next t ∧ AllReset s t ∧ t.devState = .ready ∧ t.desc = ⟨f, e.byte0, e.mask0, e.caps⟩ ∧
      t.ctx.fwVersion = s.opnd.ec ∧ t.status = ⟨.silent, 0, false, false⟩ ∧ t.ret = s.ret

/-- R291: IDENT of an unregistered signature resets everything, then ends Failed with UnsupportedSignature; the descriptor is
not written. -/
def Obligations.IdentOfUnknownSignatureFails : Prop :=
  ∀ s : State, (∀ e ∈ s.cfg.registry, e.sig ≠ s.opnd.e7) →
    ∃ t, exec .ident s = .next t ∧ AllReset s t ∧ t.devState = .failed ∧ t.desc = s.desc ∧ t.ctx.fwVersion = ⟨0, 0, 0⟩ ∧
      t.status = ⟨.error, 1, false, false⟩ ∧ t.ret = s.ret

/-- R320: RESET. The descriptor, the stored packets and the refusal bit keep their values. -/
def Obligations.ResetClearsTheBlock : Prop :=
  ∀ s : State, ∃ t, exec .reset s = .next t ∧ AllReset s t ∧ t.devState = .unidentified ∧ t.desc = s.desc ∧
    t.ctx.fwVersion = ⟨0, 0, 0⟩ ∧ t.status = ⟨.silent, 0, false, false⟩ ∧ t.ret = s.ret

/-- R43, R321, R322: what a newly created instance of any configuration holds, as far as the spec gives it. -/
def Obligations.CreationValues : Prop :=
  ∀ c : Cfg, (State.create c).cfg = c ∧ (State.create c).devState = .unidentified ∧ (State.create c).ctx.prevFin = false ∧
    GroupClosed (State.create c) ∧ (State.create c).ctx.fwVersion = ⟨0, 0, 0⟩ ∧
    (State.create c).ctx.bmPrevValid = false ∧ (State.create c).ctx.bmOrient = c.initOrient ∧
    (State.create c).fields = {} ∧ (∀ i : Fin 5, FingerIsReset c (State.create c).vf[i]) ∧
    (State.create c).status = ⟨.silent, 0, false, false⟩ ∧ (State.create c).report = ⟨[], 0, 0, 0, 0, 0, 0, false⟩ ∧
    (State.create c).refused = false

/-! ### The whole machine -/

/-- R33, R36, R37, R38, R27, R120, R290: the invariant every step keeps. Its clause on the byte memory is the model's canonical
form. R36, R249: while the host presents only IDENT, PKT and RESET, the filters of free fingers stay reset too; a filter
operation presented by word (assumption 10) may feed one. -/
def Obligations.StepKeepsTheInvariant : Prop :=
  ∀ s t : State, s.Consistent → step s = .next t →
    t.Consistent ∧ (s.hostOnly = true → s.FreeFingersReset → t.FreeFingersReset)

/-- The invariant holds of every new instance whose moving-average window has an entry, so of State.reset; the filters of its
free fingers are reset. -/
def Obligations.NewInstanceMeetsTheInvariant : Prop :=
  (∀ c : Cfg, 1 ≤ c.maWindow → (State.create c).Consistent ∧ (State.create c).FreeFingersReset) ∧
    State.reset.Consistent ∧ State.reset.FreeFingersReset

/-- R305, R51, R70: while the host presents only IDENT, PKT (of 1 to PKT_MAX bytes) and RESET no step ever stops: every
transaction ends in a next state, whatever the packet bytes, and the same holds after it. -/
def Obligations.HostTransactionsNeverStop : Prop :=
  ∀ s : State, s.hostOnly = true → ∃ t, step s = .next t ∧ t.hostOnly = true

/-- R325, R41: no step changes the configuration, and the refusal bit is never cleared. -/
def Obligations.ConfigurationIsStatic : Prop :=
  ∀ s t : State, step s = .next t → t.cfg = s.cfg ∧ (s.refused = true → t.refused = true)

/-- R22, R23, R28: the descriptor is written by IDENT alone, the device state and the firmware version by IDENT and RESET
alone. -/
def Obligations.IdentificationIsWrittenByIdentOnly : Prop :=
  ∀ (i : Instr) (s t : State), exec i s = .next t → i ≠ .ident →
    t.desc = s.desc ∧ (i ≠ .reset → t.devState = s.devState ∧ t.ctx.fwVersion = s.ctx.fwVersion)

/-- R40: the report changes only when a report is emitted (apart from the resets of IDENT and RESET). -/
def Obligations.ReportChangesOnlyWhenEmitted : Prop :=
  ∀ (i : Instr) (s t : State), exec i s = .next t → i ≠ .ident → i ≠ .reset → t.status.emit = false → t.report = s.report

/-! ### Touchpad packets of one position -/

/-- R133, R135: an absolute position packet of V1 or V2. At the values of ges and fin that the layout lists the pressure is its
tap pressure, and the tap-drag edge is at the values of ges, fin and prev_fin that it lists. That a layout may list other values
than R133's is the model's reading of 93 G14 and G15, which make them parameters (assumption 4); ReferenceLayoutV1V2 says which
they are in the reference layouts. A flag is bit 0 of its field (assumption 29). -/
def Obligations.AbsolutePositionPacket : Prop :=
  ∀ (s : State) (i : Instr) (fam : Family) (l : AbsLayout),
    (i, fam, l) ∈ [(Instr.decV1One, Family.v1, s.cfg.layouts.v1), (.decV2One, .v2, s.cfg.layouts.v2)] →
    l.reach ≤ s.opnd.pkt.length →
    let p := s.opnd.pkt
    let z := if (flag p l.ges, flag p l.fin) ∈ l.tapWhen then l.tapZ else field p l.z
    ∃ t, exec i s = .next t ∧ KeepsDevice s t ∧ KeepsPairing s t ∧ KeepsBuffer s t ∧ AbandonsGroup s t ∧
      t.ctx.prevFin = flag p l.fin ∧
      ShowsFrame fam
        { st := ⟨field p l.x, field p l.y⟩, pressure := z, fingers := if 0 < z then 1 else 0
          left := flag p l.left, right := flag p l.right, middle := flag p l.middle
          ges := flag p l.ges, fin := flag p l.fin
          tapDrag := decide ((flag p l.ges, flag p l.fin, s.ctx.prevFin) ∈ l.tapDrag), cls := 1 }
        false s t

/-- R144, R147, R113: a position packet of V3 or V3R that opens no group. A flag is bit 0 of its field (assumption 29). -/
def Obligations.PinnaclePositionPacket : Prop :=
  ∀ (s : State) (i : Instr) (fam : Family) (l : PinnacleLayout),
    (i, fam, l) ∈ [(Instr.decV3One, Family.v3, s.cfg.layouts.v3), (.decV3rOne, .v3r, s.cfg.layouts.v3r)] →
    l.reach ≤ s.opnd.pkt.length → flag s.opnd.pkt l.firstMp = false →
    let p := s.opnd.pkt
    ∃ t, exec i s = .next t ∧ KeepsDevice s t ∧ KeepsPairing s t ∧ KeepsBuffer s t ∧ AbandonsGroup s t ∧
      t.ctx.prevFin = s.ctx.prevFin ∧
      ShowsFrame fam
        { st := ⟨field p l.stX, field p l.stY⟩, pressure := field p l.pressure
          fingers := if 0 < field p l.pressure then 1 else 0
          left := flag p l.buttons.left, right := flag p l.buttons.right, middle := flag p l.buttons.middle
          tsLeft := keptTs s.desc (flag p l.buttons.tsLeft), tsRight := keptTs s.desc (flag p l.buttons.tsRight)
          tsMiddle := keptTs s.desc (flag p l.buttons.tsMiddle), cls := 1 }
        false s t

/-- R161, R113: a position packet of V5 that opens no group; a packet that passes the layout's no-touch test has pressure 0. A
flag is bit 0 of its field (assumption 29). -/
def Obligations.DolphinPositionPacket : Prop :=
  ∀ s : State, s.cfg.layouts.v5.reach ≤ s.opnd.pkt.length → flag s.opnd.pkt s.cfg.layouts.v5.firstMp = false →
    let p := s.opnd.pkt
    let l := s.cfg.layouts.v5
    let z := if passesAll p l.noTouch = true then 0 else field p l.pressure
    ∃ t, exec .decV5One s = .next t ∧ KeepsDevice s t ∧ KeepsPairing s t ∧ KeepsBuffer s t ∧ AbandonsGroup s t ∧
      t.ctx.prevFin = s.ctx.prevFin ∧
      ShowsFrame .v5
        { st := ⟨field p l.stX, field p l.stY⟩, pressure := z, fingers := if 0 < z then 1 else 0
          left := flag p l.buttons.left, right := flag p l.buttons.right, middle := flag p l.buttons.middle
          tsLeft := keptTs s.desc (flag p l.buttons.tsLeft), tsRight := keptTs s.desc (flag p l.buttons.tsRight)
          tsMiddle := keptTs s.desc (flag p l.buttons.tsMiddle), cls := 1 }
        false s t

/-- R171: a position packet of V6. A flag is bit 0 of its field (assumption 29). -/
def Obligations.V6PositionPacket : Prop :=
  ∀ s : State, s.cfg.layouts.v6.reach ≤ s.opnd.pkt.length →
    let p := s.opnd.pkt
    let l := s.cfg.layouts.v6
    ∃ t, exec .decV6One s = .next t ∧ KeepsDevice s t ∧ KeepsPairing s t ∧ KeepsBuffer s t ∧ AbandonsGroup s t ∧
      t.ctx.prevFin = s.ctx.prevFin ∧
      ShowsFrame .v6
        { st := ⟨field p l.x, field p l.y⟩, pressure := field p l.z, fingers := if 0 < field p l.z then 1 else 0
          left := flag p l.left, right := flag p l.right, cls := 1 }
        false s t

/-- R201, R211, R199: a one-finger packet of V8 or SS4-Plus; on a BUTTONPAD device only the left button counts. A flag is bit 0
of its field (assumption 29). -/
def Obligations.SS4OneFingerPacket : Prop :=
  ∀ (s : State) (i : Instr) (fam : Family) (l : SS4Layout),
    (i, fam, l) ∈ [(Instr.decV8One, Family.v8, s.cfg.layouts.v8), (.decSs4pOne, .ss4p, s.cfg.layouts.ss4p)] →
    l.reach ≤ s.opnd.pkt.length →
    let p := s.opnd.pkt
    let z := (field p l.oneZ * l.oneZMul) &&& l.oneZMask
    ∃ t, exec i s = .next t ∧ KeepsDevice s t ∧ KeepsPairing s t ∧ KeepsBuffer s t ∧ AbandonsGroup s t ∧
      t.ctx.prevFin = s.ctx.prevFin ∧
      ShowsFrame fam
        { st := ⟨field p l.oneX, field p l.oneY⟩, pressure := z, fingers := if 0 < z then 1 else 0
          left := flag p l.left, right := decide (.buttonpad ∉ s.desc.caps) && flag p l.right
          middle := decide (.buttonpad ∉ s.desc.caps) && flag p l.middle, cls := 1 }
        false s t

/-! ### Touchpad packets of two positions -/

/-- R202, R212, R197: a two-finger packet of V8 or SS4-Plus without the continuation bit: two fingers whatever the pressure. A
flag is bit 0 of its field (assumption 29). -/
def Obligations.SS4TwoFingerPacket : Prop :=
  ∀ (s : State) (i : Instr) (fam : Family) (l : SS4Layout),
    (i, fam, l) ∈ [(Instr.decV8Two, Family.v8, s.cfg.layouts.v8), (.decSs4pTwo, .ss4p, s.cfg.layouts.ss4p)] →
    l.reach ≤ s.opnd.pkt.length → flag s.opnd.pkt l.cont = false →
    let p := s.opnd.pkt
    let a : Pos := if .buttonpad ∈ s.desc.caps then ⟨field p l.btlX0, field p l.btlY0⟩ else ⟨field p l.stdX0, field p l.stdY0⟩
    let b : Pos := if .buttonpad ∈ s.desc.caps then ⟨field p l.btlX1, field p l.btlY1⟩ else ⟨field p l.stdX1, field p l.stdY1⟩
    ∃ t, exec i s = .next t ∧ KeepsDevice s t ∧ KeepsPairing s t ∧ KeepsBuffer s t ∧ AbandonsGroup s t ∧
      t.ctx.prevFin = s.ctx.prevFin ∧
      ShowsFrame fam
        { mt := #v[a, b, ⟨0, 0⟩, ⟨0, 0⟩, ⟨0, 0⟩], npos := 2, fingers := 2
          pressure := if field p l.mfZ0 ≠ 0 then l.twoPressure else 0
          left := flag p l.left, right := decide (.buttonpad ∉ s.desc.caps) && flag p l.right
          middle := decide (.buttonpad ∉ s.desc.caps) && flag p l.middle, cls := 2 }
        false s t

/-- R186, R187, R183, R115: a TWO or MULTI packet of V7. The finger count is the number of nonzero positions (TWO) or what the
packet says (MULTI), plus the resting fingers of a BUTTONPAD device, cut down to five with CapacityExceeded; a lone touch in
the second position moves to the first; npos counts the nonzero positions. That a layout may count both positions instead is
the model's reading of 93 G40, which makes the count a parameter (assumption 4). A flag is bit 0 of its field (assumption 29). -/
def Obligations.V7PositionPackets : Prop :=
  ∀ s : State, s.cfg.layouts.v7.reach ≤ s.opnd.pkt.length →
    let p := s.opnd.pkt
    let l := s.cfg.layouts.v7
    let nz (a b : Pos) : Nat := (if a ≠ ⟨0, 0⟩ then 1 else 0) + (if b ≠ ⟨0, 0⟩ then 1 else 0)
    ∀ (i : Instr) (cls : Nibble) (a b : Pos) (base : Nat),
      (i, cls, a, b, base) ∈
        [(Instr.decV7Two, (2 : Nibble), v7First l p, v7Second l p, nz (v7First l p) (v7Second l p)),
         (.decV7Multi, 3, v7First l p, v7SecondM l p, l.fingersBase + field p l.fingersMore)] →
      let n := base + (if .buttonpad ∈ s.desc.caps ∧ flag p l.padFingerA = true then 1 else 0) +
        (if .buttonpad ∈ s.desc.caps ∧ flag p l.padFingerB = true then 1 else 0)
      let m : Pos × Pos := if n = 1 ∧ a = ⟨0, 0⟩ then (b, ⟨0, 0⟩) else (a, b)
      ∃ t, exec i s = .next t ∧ KeepsDevice s t ∧ KeepsPairing s t ∧ KeepsBuffer s t ∧ AbandonsGroup s t ∧
        t.ctx.prevFin = s.ctx.prevFin ∧
        ShowsFrame .v7
          { mt := #v[m.1, m.2, ⟨0, 0⟩, ⟨0, 0⟩, ⟨0, 0⟩]
            npos := if l.npos = .nonzero then nz m.1 m.2 else 2
            pressure := field p l.pressure
            fingers := min n 5, left := flag p l.left
            right := decide (.buttonpad ∉ s.desc.caps) && flag p l.right
            middle := decide (.buttonpad ∉ s.desc.caps) && flag p l.middle, cls := cls }
          (decide (5 < n)) s t

/-! ### Multi-packet groups -/

/-- R101, R100: a packet that opens a group is stored as entry 0 and shows nothing. It does so over an older group too. V4's
position packet always opens one (R152); V3, V3R and V5 with first_mp (R144, R147, R161), V8 and SS4-Plus with the continuation
bit (R202, R212). The stored fields are those of the rules, with the trackstick buttons gated (R113, assumption 17). That the
bytes of the entry past the packet's end are 0x00, and that a flag is bit 0 of its field, is the model's choice (assumptions 6
and 29). -/
def Obligations.OpenerIsStored : Prop :=
  ∀ s : State, s.ctx.mpMem.wf →
    let p := s.opnd.pkt
    let L := s.cfg.layouts
    let single (x y : Terms) (z : Nat) (b : ButtonLayout) : Fields :=
      { st := ⟨field p x, field p y⟩, pressure := z, fingers := if 0 < z then 1 else 0
        left := flag p b.left, right := flag p b.right, middle := flag p b.middle
        tsLeft := keptTs s.desc (flag p b.tsLeft), tsRight := keptTs s.desc (flag p b.tsRight)
        tsMiddle := keptTs s.desc (flag p b.tsMiddle), firstMp := true, cls := 1 }
    let double (l : SS4Layout) : Fields :=
      { mt :=
          if .buttonpad ∈ s.desc.caps then
            #v[⟨field p l.btlX0, field p l.btlY0⟩, ⟨field p l.btlX1, field p l.btlY1⟩, ⟨0, 0⟩, ⟨0, 0⟩, ⟨0, 0⟩]
          else #v[⟨field p l.stdX0, field p l.stdY0⟩, ⟨field p l.stdX1, field p l.stdY1⟩, ⟨0, 0⟩, ⟨0, 0⟩, ⟨0, 0⟩]
        npos := 2, fingers := 0, pressure := if field p l.mfZ0 ≠ 0 then l.twoPressure else 0
        left := flag p l.left, right := decide (.buttonpad ∉ s.desc.caps) && flag p l.right
        middle := decide (.buttonpad ∉ s.desc.caps) && flag p l.middle, firstMp := true, cls := 2 }
    ∀ (i : Instr) (reach : Nat) (first : Bool) (cls : Nibble) (f : Fields),
      (i, reach, first, cls, f) ∈
        [(Instr.decV3One, L.v3.reach, flag p L.v3.firstMp, (1 : Nibble),
           single L.v3.stX L.v3.stY (field p L.v3.pressure) L.v3.buttons),
         (.decV3rOne, L.v3r.reach, flag p L.v3r.firstMp, 1,
           single L.v3r.stX L.v3r.stY (field p L.v3r.pressure) L.v3r.buttons),
         (.decV4One, L.v4.reach, true, 1,
           { st := ⟨field p L.v4.stX, field p L.v4.stY⟩, pressure := field p L.v4.pressure
             fingers := if 0 < field p L.v4.pressure then 1 else 0
             left := flag p L.v4.left, right := flag p L.v4.right, firstMp := true, cls := 1 }),
         (.decV5One, L.v5.reach, flag p L.v5.firstMp, 1,
           single L.v5.stX L.v5.stY (if passesAll p L.v5.noTouch = true then 0 else field p L.v5.pressure) L.v5.buttons),
         (.decV8Two, L.v8.reach, flag p L.v8.cont, 2, double L.v8),
         (.decSs4pTwo, L.ss4p.reach, flag p L.ss4p.cont, 2, double L.ss4p)] →
      reach ≤ p.length → first = true →
      ∃ t, exec i s = .next t ∧ KeepsDevice s t ∧ KeepsPairing s t ∧ StaysSilent s t ∧ t.ctx.prevFin = s.ctx.prevFin ∧
        t.fields = { cls := cls } ∧ t.ctx.mpOpen = true ∧ t.ctx.mpFill = 1 ∧
        StoresEntry 0 p f s t

/-- R105, R150, R145, R148, R162: the continuation of a V3, V3R or V5 group ends it: the frame has the opener's position,
pressure and buttons, the packet's bitmaps and finger count, and the positions the operation BITMAP gives on them (u), in
mt[0..n-1] with npos = n; the pairing state is BITMAP's. The model's choices: the class of a merged frame is that of its last
packet (assumption 15), BITMAP's pitch, offset and reversal are those of desc.fam, not of the operation's family (assumption 16),
and the bytes of the entry past the packet's end are 0x00 (assumption 6). -/
def Obligations.BitmapGroupEnds : Prop :=
  ∀ s : State, s.ctx.mpMem.wf → s.ctx.mpOpen = true → s.ctx.mpFill = 1 →
    let p := s.opnd.pkt
    let L := s.cfg.layouts
    let xb := s.cfg.geom.xBits
    let yb := s.cfg.geom.yBits
    ∀ (i : Instr) (fam : Family) (reach n xm ym : Nat),
      (i, fam, reach, n, xm, ym) ∈
        [(Instr.decV3Multi, Family.v3, L.v3.reach, maxField p L.v3.fingers + L.v3.fingersAdd,
           field p L.v3.xMap % 2 ^ xb, field p L.v3.yMap % 2 ^ yb),
         (.decV3rMulti, .v3r, L.v3r.reach, maxField p L.v3r.fingers + L.v3r.fingersAdd,
           field p L.v3r.xMap % 2 ^ xb, field p L.v3r.yMap % 2 ^ yb),
         (.decV5Multi, .v5, L.v5.reach, field p L.v5.fingers,
           field p L.v5.palm / 2 ^ yb % 2 ^ xb, field p L.v5.palm % 2 ^ yb)] →
      reach ≤ p.length →
      let e := s.ctx.mpFields[0]
      ∃ t u, exec i s = .next t ∧ exec .bitmap { s with opnd := { xm := xm, ym := ym, fingers := n } } = .next u ∧
        KeepsDevice s t ∧ GroupClosed t ∧ t.ctx.prevFin = s.ctx.prevFin ∧ KeepsPairing u t ∧
        StoresEntry 1 p { isMp := true, fingers := n, xMap := xm, yMap := ym, cls := 3 } s t ∧
        ShowsFrame fam
          { e with
            mt := Vector.ofFn fun j : Fin 5 => u.ret.points.getD j e.mt[j]
            npos := u.ret.points.length
            xMap := xm, yMap := ym, fingers := min n 5, firstMp := false, isMp := false
            tsLeft := keptTs s.desc e.tsLeft, tsRight := keptTs s.desc e.tsRight
            tsMiddle := keptTs s.desc e.tsMiddle, cls := 3 }
          (decide (5 < n)) s t

/-- R153, R105: a continuation of V4 that does not end its group is stored behind the packets before it and shows nothing. That
the bytes of the entry past the packet's end are 0x00 is the model's choice (assumption 6). A flag is bit 0 of its field
(assumption 29). -/
def Obligations.V4ContinuationIsStored : Prop :=
  ∀ s : State, s.ctx.mpMem.wf → s.ctx.mpOpen = true → s.ctx.mpFill < 2 → s.cfg.layouts.v4.reach ≤ s.opnd.pkt.length →
    let p := s.opnd.pkt
    let l := s.cfg.layouts.v4
    ∃ t, exec .decV4Multi s = .next t ∧ KeepsDevice s t ∧ KeepsPairing s t ∧ StaysSilent s t ∧
      t.ctx.prevFin = s.ctx.prevFin ∧ t.fields = { cls := 3 } ∧ t.ctx.mpOpen = true ∧ t.ctx.mpFill = s.ctx.mpFill + 1 ∧
      StoresEntry s.ctx.mpFill p
        { st := ⟨field p l.stX, field p l.stY⟩, pressure := field p l.pressure
          fingers := if 0 < field p l.pressure then 1 else 0
          left := flag p l.left, right := flag p l.right, isMp := true, cls := 3 }
        s t

/-- R153, R154, R105: the third packet of a V4 group ends it: the group's bitmap bytes are collected from the three packets,
the finger count is the greater number of maximal runs of asserted bits, and the frame has the last packet's position, pressure
and buttons and the positions the operation BITMAP gives (u), in mt[0..n-1] with npos = n; the pairing state is BITMAP's. The
model's choices: without a position the frame falls back to the last packet's (assumption 27), BITMAP's pitch, offset and
reversal are those of desc.fam (assumption 16), the class is the last packet's (assumption 15), the bytes of an entry past its
packet's end and a map byte past those collected read 0x00 (assumptions 6 and 24). A flag is bit 0 of its field (assumption
29). -/
def Obligations.V4GroupEnds : Prop :=
  ∀ s : State, s.ctx.mpMem.wf → s.ctx.mpOpen = true → s.ctx.mpFill = 2 → s.cfg.layouts.v4.reach ≤ s.opnd.pkt.length →
    s.opnd.pkt.length ≤ pktMax →
    let p := s.opnd.pkt
    let l := s.cfg.layouts.v4
    let b := l.mapBytes.map (fun k => s.ctx.mpMem.read (mpAddr 0 k)) ++
      l.mapBytes.map (fun k => s.ctx.mpMem.read (mpAddr 1 k)) ++ l.mapBytes.map (byteAt p)
    let xm := field b l.xMap % 2 ^ s.cfg.geom.xBits
    let ym := field b l.yMap % 2 ^ s.cfg.geom.yBits
    let f : Fields :=
      { st := ⟨field p l.stX, field p l.stY⟩, pressure := field p l.pressure
        fingers := if 0 < field p l.pressure then 1 else 0
        left := flag p l.left, right := flag p l.right, isMp := true, cls := 3 }
    ∃ nx ny, CountsRuns s.cfg.geom.xBits xm nx ∧ CountsRuns s.cfg.geom.yBits ym ny ∧
      let n := max nx ny
      ∃ t u, exec .decV4Multi s = .next t ∧ exec .bitmap { s with opnd := { xm := xm, ym := ym, fingers := n } } = .next u ∧
        KeepsDevice s t ∧ GroupClosed t ∧ t.ctx.prevFin = s.ctx.prevFin ∧ KeepsPairing u t ∧ StoresEntry 2 p f s t ∧
        ShowsFrame .v4
          { f with
            mt := Vector.ofFn fun j : Fin 5 => u.ret.points.getD j ⟨0, 0⟩
            npos := u.ret.points.length
            xMap := xm, yMap := ym, fingers := min n 5, isMp := false }
          (decide (5 < n)) s t

/-- R203, R213, R206, R198, R105: the continuation of a V8 or SS4-Plus group ends it: its two positions become the third and
fourth, the fourth absent where it is the no-data constant; five fingers with the continuation bit. The model's choices: the
class of the frame is that of the last packet (assumption 15), and the bytes of the entry past the packet's end are 0x00
(assumption 6). A flag is bit 0 of its field (assumption 29). -/
def Obligations.SS4GroupEnds : Prop :=
  ∀ (s : State) (i : Instr) (fam : Family) (l : SS4Layout),
    (i, fam, l) ∈ [(Instr.decV8Multi, Family.v8, s.cfg.layouts.v8), (.decSs4pMulti, .ss4p, s.cfg.layouts.ss4p)] →
    s.ctx.mpMem.wf → s.ctx.mpOpen = true → s.ctx.mpFill = 1 → l.reach ≤ s.opnd.pkt.length →
    let p := s.opnd.pkt
    let a : Pos := if .buttonpad ∈ s.desc.caps then ⟨field p l.btlX0, field p l.btlY0⟩ else ⟨field p l.stdX0, field p l.stdY0⟩
    let b : Pos := if .buttonpad ∈ s.desc.caps then ⟨field p l.btlX1, field p l.btlY1⟩ else ⟨field p l.stdX1, field p l.stdY1⟩
    let no : Pos := if .buttonpad ∈ s.desc.caps then ⟨l.padNoX, l.padNoY⟩ else ⟨l.noX, l.noY⟩
    let d : Pos := if flag p l.cont = false ∧ b = no then ⟨0, 0⟩ else b
    let n := if flag p l.cont = true then 5 else if b = no then 3 else 4
    let e := s.ctx.mpFields[0]
    ∃ t, exec i s = .next t ∧ KeepsDevice s t ∧ KeepsPairing s t ∧ GroupClosed t ∧ t.ctx.prevFin = s.ctx.prevFin ∧
      StoresEntry 1 p { mt := #v[⟨0, 0⟩, ⟨0, 0⟩, a, d, ⟨0, 0⟩], isMp := true, fingers := n, cls := 3 } s t ∧
      ShowsFrame fam
        { e with
          mt := (e.mt.set 2 a).set 3 d, fingers := n, npos := 4, firstMp := false, isMp := false
          tsLeft := keptTs s.desc e.tsLeft, tsRight := keptTs s.desc e.tsRight
          tsMiddle := keptTs s.desc e.tsMiddle, cls := 3 }
        false s t

/-- R106, R107, R293, R294, R31: a continuation with no group open, or with the buffer full, is OutOfSequence: the context is
reset, the packet dropped, the tracker not stepped, no report. That a count above MP_CAP is a full buffer too is the model's
reading (assumption 21). -/
def Obligations.ContinuationOutOfSequence : Prop :=
  ∀ s : State, s.ctx.mpOpen = false ∨ mpCap ≤ s.ctx.mpFill →
    ∀ (i : Instr) (reach : Nat),
      (i, reach) ∈
        [(Instr.decV3Multi, s.cfg.layouts.v3.reach), (.decV3rMulti, s.cfg.layouts.v3r.reach),
         (.decV4Multi, s.cfg.layouts.v4.reach), (.decV5Multi, s.cfg.layouts.v5.reach),
         (.decV8Multi, s.cfg.layouts.v8.reach), (.decSs4pMulti, s.cfg.layouts.ss4p.reach)] →
      reach ≤ s.opnd.pkt.length →
      ∃ t, exec i s = .next t ∧ KeepsDevice s t ∧ ContextReset s t ∧ t.fields = { cls := 3 } ∧ t.vf = s.vf ∧
        t.report = s.report ∧ t.status = ⟨.error, 3, false, false⟩

/-! ### Idle, unknown, dropped and trackstick packets -/

/-- R185, R200, R210, R102: an idle packet abandons a group and steps the tracker with no contacts; a report only if
IDLE_REPORT = Emit. -/
def Obligations.IdlePackets : Prop :=
  ∀ (s : State) (i : Instr) (fam : Family),
    (i, fam) ∈ [(Instr.decV7Idle, Family.v7), (.decV8Idle, .v8), (.decSs4pIdle, .ss4p)] →
    ∃ t, exec i s = .next t ∧ KeepsDevice s t ∧ KeepsPairing s t ∧ KeepsBuffer s t ∧ AbandonsGroup s t ∧
      t.ctx.prevFin = s.ctx.prevFin ∧
      ShowsIdle fam 0 (if s.cfg.idleReport = .emit then .frame else .silent) 0 s t

/-- R190, R205, R215, R109, R298: an unclassifiable packet resets the context, is handled as idle, and ends with
UnknownPacketClassification. -/
def Obligations.UnknownPackets : Prop :=
  ∀ (s : State) (i : Instr) (fam : Family),
    (i, fam) ∈ [(Instr.decV7Unknown, Family.v7), (.decV8Unknown, .v8), (.decSs4pUnknown, .ss4p)] →
    ∃ t, exec i s = .next t ∧ KeepsDevice s t ∧ ContextReset s t ∧ ShowsIdle fam 6 .error 4 s t

/-- R188, R103, R137, R146: a V7 "new" packet, a trackstick packet on a device without DUALPOINT, and one a sanity test of the
layout rejects, are dropped: an open group is abandoned, no tracker step, no report, no error. That the layouts of V6, V7, V8 and
SS4-Plus may reject packets as those of V3 and V3R do is the model's generalisation (assumption 4). -/
def Obligations.DroppedPackets : Prop :=
  ∀ s : State,
    let p := s.opnd.pkt
    let L := s.cfg.layouts
    ∀ (i : Instr) (reach : Nat) (dropped : Bool) (cls : Nibble),
      (i, reach, dropped, cls) ∈
        [(Instr.decV7New, 0, true, (4 : Nibble)),
         (.decV3Stick, L.v3.reach, L.v3.stick.reject.any (passesAll p), 5),
         (.decV3rStick, L.v3r.reach, L.v3r.stick.reject.any (passesAll p), 5),
         (.decV6Stick, L.v6.reach, L.v6.stick.reject.any (passesAll p), 5),
         (.decV7Stick, L.v7.reach, L.v7.stick.reject.any (passesAll p), 5),
         (.decV8Stick, L.v8.reach, L.v8.stick.reject.any (passesAll p), 5),
         (.decSs4pStick, L.ss4p.reach, L.ss4p.stick.reject.any (passesAll p), 5)] →
      reach ≤ p.length → dropped = true ∨ .dualpoint ∉ s.desc.caps →
      ∃ t, exec i s = .next t ∧ KeepsDevice s t ∧ KeepsPairing s t ∧ KeepsBuffer s t ∧ AbandonsGroup s t ∧ StaysSilent s t ∧
        t.ctx.prevFin = s.ctx.prevFin ∧ t.fields = { cls := cls }

/-- R146, R149, R172, R189, R204, R214, R111: a trackstick packet on a DUALPOINT device: sign-extended deltas divided by the
layout's divisors, y negated; the lift marker reads as no motion. R172 gives a lift marker for V6 only, and R83 a division for V3
and V6 only (V3R as V3): that each of the six layouts may have them is the model's generalisation (assumption 4). Of a delta field above 0xFF the low eight bits are extended in
every family (assumption 28), and a flag is bit 0 of its field (assumption 29). -/
def Obligations.TrackstickPackets : Prop :=
  ∀ (s : State) (i : Instr) (reach : Nat) (l : StickLayout),
    (i, reach, l) ∈
      [(Instr.decV3Stick, s.cfg.layouts.v3.reach, s.cfg.layouts.v3.stick),
       (.decV3rStick, s.cfg.layouts.v3r.reach, s.cfg.layouts.v3r.stick),
       (.decV6Stick, s.cfg.layouts.v6.reach, s.cfg.layouts.v6.stick),
       (.decV7Stick, s.cfg.layouts.v7.reach, s.cfg.layouts.v7.stick),
       (.decV8Stick, s.cfg.layouts.v8.reach, s.cfg.layouts.v8.stick),
       (.decSs4pStick, s.cfg.layouts.ss4p.reach, s.cfg.layouts.ss4p.stick)] →
    reach ≤ s.opnd.pkt.length → .dualpoint ∈ s.desc.caps → l.reject.any (passesAll s.opnd.pkt) = false →
    let p := s.opnd.pkt
    let v := (field p l.x, field p l.y, field p l.z)
    let w := if l.lift = some v then (0, 0, 0) else v
    ∃ t, exec i s = .next t ∧ KeepsDevice s t ∧ KeepsPairing s t ∧ KeepsBuffer s t ∧ AbandonsGroup s t ∧
      t.ctx.prevFin = s.ctx.prevFin ∧
      ShowsStick
        { stickDx := (BitVec.ofNat 8 w.1).toInt.tdiv l.xDiv, stickDy := -(BitVec.ofNat 8 w.2.1).toInt.tdiv l.yDiv
          stickZ := w.2.2, tsLeft := flag p l.left, tsRight := flag p l.right, tsMiddle := flag p l.middle, cls := 5 }
        s t

/-- R134, R136, R111: a trackstick packet of V1 or V2: relative deltas, those above the layout's limits wrapped to negative
ones, y negated, the layout's pressure (none in the rules and the reference layouts; a layout that has one is the model's
generalisation, assumption 4); prev_fin is not written. That it does not depend on DUALPOINT is the model's reading (assumption
30). A flag is bit 0 of its field (assumption 29). -/
def Obligations.RelativeStickPackets : Prop :=
  ∀ (s : State) (i : Instr) (l : AbsLayout),
    (i, l) ∈ [(Instr.decV1Stick, s.cfg.layouts.v1), (.decV2Stick, s.cfg.layouts.v2)] →
    l.reach ≤ s.opnd.pkt.length →
    let p := s.opnd.pkt
    let x : Int := field p l.x
    let y : Int := field p l.y
    ∃ t, exec i s = .next t ∧ KeepsDevice s t ∧ KeepsPairing s t ∧ KeepsBuffer s t ∧ AbandonsGroup s t ∧
      t.ctx.prevFin = s.ctx.prevFin ∧
      ShowsStick
        { stickDx := if x > l.dxAbove then x - l.dxSpan else x, stickDy := -(if y > l.dyAbove then y - l.dySpan else y)
          stickZ := field p l.stickZ
          tsLeft := flag p l.left, tsRight := flag p l.right, tsMiddle := flag p l.middle, cls := 5 }
        s t

/-- R114: the contact list of a frame: without positions the single-touch position if a finger counts, else the first
positions, as many as fingers and positions allow, each in its own slot with the frame's pressure. -/
def Obligations.ContactListOfAFrame : Prop :=
  ∀ f : Fields,
    (f.npos = 0 → f.fingers = 0 → contactsOf f = []) ∧
    (f.npos = 0 → 1 ≤ f.fingers → contactsOf f = [⟨f.st.x, f.st.y, f.pressure, 0⟩]) ∧
    (1 ≤ f.npos → f.npos ≤ 5 →
      (contactsOf f).length = min f.fingers f.npos ∧
      ∀ i, ∀ h : i < 5, i < min f.fingers f.npos → (contactsOf f)[i]? = some ⟨f.mt[i].x, f.mt[i].y, f.pressure, i⟩)

/-! ### The bitmap decoder -/

/-- R222, R223, R226, R227: with a finger count of 0 or an axis without asserted position BITMAP returns nothing; with one finger
it returns the lowest positions, scaled by pitch and offset, an axis reversed where the configuration says so; either way the
pairing state becomes invalid and the orientation stands. That pitch, offset and reversal are those of the descriptor's family is
the model's reading (assumption 16). -/
def Obligations.BitmapOfFewFingers : Prop :=
  ∀ s : State,
    let k := s.cfg.scale.get s.desc.fam
    ((s.opnd.fingers = 0 ∨ (∀ i, i < s.cfg.geom.xBits → s.opnd.xm.testBit i = false) ∨
        (∀ j, j < s.cfg.geom.yBits → s.opnd.ym.testBit j = false)) →
      exec .bitmap s =
        .next { s with ctx := { s.ctx with bmPrevValid := false }, ret := { s.ret with points := [] } }) ∧
    (∀ i j, s.opnd.fingers = 1 →
      i < s.cfg.geom.xBits → s.opnd.xm.testBit i = true → (∀ k, k < i → s.opnd.xm.testBit k = false) →
      j < s.cfg.geom.yBits → s.opnd.ym.testBit j = true → (∀ k, k < j → s.opnd.ym.testBit k = false) →
      exec .bitmap s =
        .next
          { s with
            ctx := { s.ctx with bmPrevValid := false }
            ret :=
              { s.ret with
                points :=
                  [⟨k.offsetX + (if k.revX = true then (s.cfg.geom.xBits : Int) - 1 - i else i) * k.pitchX,
                    k.offsetY + (if k.revY = true then (s.cfg.geom.yBits : Int) - 1 - j else j) * k.pitchY⟩] } })

/-- R224, R225, R226, R227, R243: with two or more fingers BITMAP pairs the extreme positions of the two axes, scaled by pitch and
offset and reversed where the configuration says so, in the orientation that is nearer by DIST_METRIC to the previous two-point
output where there is one, and keeps points and orientation for the next time. That pitch, offset and reversal are those of the
descriptor's family is the model's reading (assumption 16). -/
def Obligations.BitmapPairsTheExtremes : Prop :=
  ∀ (s : State) (a b c d : Nat), 2 ≤ s.opnd.fingers →
    b < s.cfg.geom.xBits → s.opnd.xm.testBit a = true → s.opnd.xm.testBit b = true →
    (∀ k, k < s.cfg.geom.xBits → s.opnd.xm.testBit k = true → a ≤ k ∧ k ≤ b) → a ≤ b →
    d < s.cfg.geom.yBits → s.opnd.ym.testBit c = true → s.opnd.ym.testBit d = true →
    (∀ k, k < s.cfg.geom.yBits → s.opnd.ym.testBit k = true → c ≤ k ∧ k ≤ d) → c ≤ d →
    let k := s.cfg.scale.get s.desc.fam
    let at_ (i j : Nat) : Pos :=
      ⟨k.offsetX + (if k.revX = true then (s.cfg.geom.xBits : Int) - 1 - i else i) * k.pitchX,
        k.offsetY + (if k.revY = true then (s.cfg.geom.yBits : Int) - 1 - j else j) * k.pitchY⟩
    let cost (p q : Pos) : Int :=
      metricOf s.cfg.metric p.x p.y s.ctx.bmPrev0.x s.ctx.bmPrev0.y +
        metricOf s.cfg.metric q.x q.y s.ctx.bmPrev1.x s.ctx.bmPrev1.y
    let direct := cost (at_ a c) (at_ b d)
    let crossed := cost (at_ a d) (at_ b c)
    let o : Orient :=
      if s.ctx.bmPrevValid = true ∧ direct < crossed then .direct
      else if s.ctx.bmPrevValid = true ∧ crossed < direct then .crossed else s.ctx.bmOrient
    let p : Pos := if o = .direct then at_ a c else at_ a d
    let q : Pos := if o = .direct then at_ b d else at_ b c
    exec .bitmap s =
      .next
        { s with
          ctx := { s.ctx with bmPrevValid := true, bmPrev0 := p, bmPrev1 := q, bmOrient := o }
          ret := { s.ret with points := [p, q] } }

/-! ### The tracker -/

/-- R240: the operation TRACK steps the pool by the contacts and the button bit, and sets the capacity bit if a contact found no
finger; it writes nothing else. -/
def Obligations.TrackStepsThePool : Prop :=
  ∀ s : State, ∃ t, exec .track s = .next t ∧
    t = { s with
          vf := (trackPool s.cfg s.opnd.contacts s.opnd.button s.vf).1
          status := { s.status with cap := s.status.cap || (trackPool s.cfg s.opnd.contacts s.opnd.button s.vf).2 } }

/-- R245, R246, R248, R249, R252: what TRACK does to one finger, field by field. A Touching one is bound to a contact (its x and y
through its two filters, z, button, miss 0), or ages a grace frame, or is released after HYST of them (all fields 0, the filters
reset) and then not bound again in this frame; a Free one stays, or is allocated a contact: Touching, the filters reset, then
bound. The finger's own tag never changes. -/
def Obligations.FateOfEachFinger : Prop :=
  ∀ (c : Cfg) (C : List Contact) (b : Bool) (pool : Vector VFinger 5) (i : Fin 5),
    let v := pool[i]
    let w := (trackPool c C b pool).1[i]
    (v.state = .touching →
      (∃ k ∈ C, Binds c k b v.fx v.fy w) ∨
      (v.miss < c.hyst ∧ w = { v with miss := v.miss + 1 }) ∨
      (c.hyst ≤ v.miss ∧ Releases c v w)) ∧
    (v.state = .free → w = v ∨ ∃ k ∈ C, Allocates c k b v w)

/-- R247, R242: with MATCH_MAX_DIST unbounded and at most MAX_TOUCHES contacts no capacity is exceeded, and every contact is
bound to a finger. R246, R247, with any MATCH_MAX_DIST: the contacts the matching leaves (uc) are allocated in ascending slot
order (us), each taking the lowest tag that was free before the frame and is not yet taken, so none that is released in it; with
fewer free tags than contacts the last contacts are dropped and the capacity condition is reported, and only then. -/
def Obligations.EveryContactFindsAFinger : Prop :=
  ∀ (c : Cfg) (C : List Contact) (b : Bool) (pool : Vector VFinger 5),
    let r := trackPool c C b pool
    (c.matchMaxDist = none → C.length ≤ 5 →
      r.2 = false ∧
      ∀ k ∈ C, ∃ i : Fin 5,
        (pool[i].state = .touching ∧ Binds c k b pool[i].fx pool[i].fy r.1[i]) ∨
          (pool[i].state = .free ∧ Allocates c k b pool[i] r.1[i])) ∧
    ∃ ps uv uc us, GreedyMatching c pool (tagsIn pool .touching) C ps uv uc ∧
      us.Perm uc ∧ (us.Pairwise fun k h => k.slot ≤ h.slot) ∧ AllocatesInOrder c b us pool r.1 r.2

/-- R242: the greedy step takes a pair of least distance; of equal distances that of least slot, then that of least tag. R240,
R243, R244: the candidates are the pairs of an unmatched finger and an unmatched contact whose distance by DIST_METRIC is at most
MATCH_MAX_DIST. R240, R245, R248: so TRACK matches greedily until no candidate is left, binds the fingers of the matched pairs
and ages the Touching fingers that stay unmatched. -/
def Obligations.MatchingTakesTheLeastPair : Prop :=
  (∀ (cs : List Cand) (a : Cand), leastCand cs = some a →
    a ∈ cs ∧ ∀ b ∈ cs,
      a.d < b.d ∨ (a.d = b.d ∧ (a.contact.slot < b.contact.slot ∨ (a.contact.slot = b.contact.slot ∧ a.tag ≤ b.tag)))) ∧
  (∀ (c : Cfg) (pool : Vector VFinger 5) (uv : List (Fin 5)) (uc : List Contact) (a : Cand),
    a ∈ candidates c pool uv uc ↔
      a.tag ∈ uv ∧ a.contact ∈ uc ∧
        (a.d : Int) = metricOf c.metric pool[a.tag].x pool[a.tag].y a.contact.x a.contact.y ∧
        ∀ l, c.matchMaxDist = some l → a.d ≤ l) ∧
  ∀ (c : Cfg) (C : List Contact) (b : Bool) (pool : Vector VFinger 5),
    let r := trackPool c C b pool
    ∃ ps uv uc, GreedyMatching c pool (tagsIn pool .touching) C ps uv uc ∧
      (∀ i k, (i, k) ∈ ps → Binds c k b pool[i].fx pool[i].fy r.1[i]) ∧ ∀ i ∈ uv, Ages c pool[i] r.1[i]

/-! ### The filters -/

/-- R270, R271, R272, R273, R278: the moving-average operations on an instance: their values, what they write, and that no
other instance and nothing else changes. -/
def Obligations.MovingAverageOperations : Prop :=
  ∀ s : State,
    let n := s.cfg.maWindow
    let f := getInst s s.opnd.inst
    let m := f.ma
    let x := s.opnd.sample
    let sum := m.sum + x - (if m.count = n then m.buf.getD m.index 0 else 0)
    let count := if m.count < n then m.count + 1 else m.count
    (∃ t, exec .maFilter s = .next t ∧ KeepsAllButFilters s t ∧
      FilterSet s.opnd.inst
        { f with ma := ⟨m.buf.set m.index x, count, sum, if m.index + 1 = n then 0 else m.index + 1⟩ } s t ∧
      t.ret = { s.ret with value := sum.tdiv count }) ∧
    (∃ t, exec .maReset s = .next t ∧ KeepsAllButFilters s t ∧
      FilterSet s.opnd.inst { f with ma := ⟨m.buf, 0, 0, 0⟩ } s t ∧ t.ret = s.ret) ∧
    exec .maOldest s =
      .next { s with ret := { s.ret with value :=
        if m.count = 0 then 0 else if m.count < n then m.buf.getD 0 0 else m.buf.getD m.index 0 } } ∧
    exec .maNewest s =
      .next { s with ret := { s.ret with value :=
        if m.count = 0 then 0 else if m.index = 0 then m.buf.getD (m.count - 1) 0 else m.buf.getD (m.index - 1) 0 } }

/-- R274, R275, R278: the decaying-average operations on an instance. -/
def Obligations.DecayOperations : Prop :=
  ∀ s : State,
    let f := getInst s s.opnd.inst
    let x := s.opnd.sample
    let r := if f.decay.lastvalid = true then
        (x * s.cfg.decayN1).tdiv s.cfg.decayD + (f.decay.last * s.cfg.decayN2).tdiv s.cfg.decayD
      else x
    (∃ t, exec .decayFilter s = .next t ∧ KeepsAllButFilters s t ∧ FilterSet s.opnd.inst { f with decay := ⟨r, true⟩ } s t ∧
      t.ret = { s.ret with value := r }) ∧
    (∃ t, exec .decayReset s = .next t ∧ KeepsAllButFilters s t ∧
      FilterSet s.opnd.inst { f with decay := ⟨f.decay.last, false⟩ } s t ∧ t.ret = s.ret)

/-- R276, R277, R278: the undecay operations on an instance. -/
def Obligations.UndecayOperations : Prop :=
  ∀ s : State,
    let f := getInst s s.opnd.inst
    let y := s.opnd.sample
    let r := if f.undecay.lastvalid = true then
        (y * s.cfg.decayD).tdiv s.cfg.decayN1 - (f.undecay.last * s.cfg.decayN2).tdiv s.cfg.decayN1
      else y
    (∃ t, exec .undecayFilter s = .next t ∧ KeepsAllButFilters s t ∧ FilterSet s.opnd.inst { f with undecay := ⟨y, true⟩ } s t ∧
      t.ret = { s.ret with value := r }) ∧
    (∃ t, exec .undecayReset s = .next t ∧ KeepsAllButFilters s t ∧
      FilterSet s.opnd.inst { f with undecay := ⟨f.undecay.last, false⟩ } s t ∧ t.ret = s.ret)

/-- R270, R272, R273: fed any samples from a reset, whatever the buffer held before, a moving average of window n gives the
truncated mean of the last n of them (of all while there are fewer), and OLDEST and NEWEST are the first and the last of
that window. -/
def Obligations.MovingAverageIsTheMeanOfTheWindow : Prop :=
  ∀ (n : Nat) (m : MaState) (xs : List Int), 1 ≤ n → m.buf.length = n → xs ≠ [] →
    let r := xs.foldl (maPush n) ⟨m.buf, 0, 0, 0⟩
    let window := xs.drop (xs.length - n)
    maMean r = window.sum.tdiv window.length ∧ maOldestOf n r = window.headD 0 ∧ maNewestOf r = window.getLastD 0

/-- R280: under its divisibility conditions UNDECAY of DECAY's output gives the sample back, and the first sample always. -/
def Obligations.UndecayInvertsDecay : Prop :=
  ∀ (n1 n2 d x y : Int) (i j : IirState), 1 ≤ n1 → 0 ≤ n2 → 1 ≤ d →
    (i.lastvalid = false → j.lastvalid = false → undecayValue n1 n2 d j (decayValue n1 n2 d i x) = x) ∧
    (i = ⟨y, true⟩ → j = ⟨y, true⟩ → 0 ≤ y → 0 ≤ x → d ∣ x * n1 → d ∣ y * n2 →
      undecayValue n1 n2 d j (decayValue n1 n2 d i x) = x)

/-! ### The reference layouts and classifiers

The values are those the spec gives for reference and marks as general knowledge (assumption 4); the statements read every bit
of them as arithmetic on the packet's bytes. -/

/-- R132: the fields of V1 and V2 packets, where the low byte's top bit and the lowest bit above it are OR-ed; R133: the tap
pressure 40 of a gesture without finger, and the tap-drag edge; R134: the wrap of trackstick deltas, and their pressure 0. -/
def Obligations.ReferenceLayoutV1V2 : Prop :=
  ∀ p : List Byte,
    (∀ l, l = Reference.v1 ∨ l = Reference.v2 →
      (∀ ges fin : Bool, (ges, fin) ∈ l.tapWhen ↔ ges = true ∧ fin = false) ∧ l.tapZ = 40 ∧
      (∀ ges fin prev : Bool, (ges, fin, prev) ∈ l.tapDrag ↔ ges = true ∧ fin = true ∧ prev = false) ∧
      l.dxAbove = 383 ∧ l.dxSpan = 768 ∧ l.dyAbove = 255 ∧ l.dySpan = 512 ∧ field p l.stickZ = 0) ∧
    let b (k : Nat) : Nat := (byteAt p k).toNat
    field p Reference.v1.x = b 1 % 128 + 128 * (b 1 / 128 ||| b 0 % 8) ∧
    field p Reference.v1.y = b 4 % 128 + 128 * (b 4 / 128 ||| b 3 % 8) ∧
    field p Reference.v1.z = b 5 ∧
    flag p Reference.v1.left = decide (b 2 / 16 % 2 = 1) ∧ flag p Reference.v1.right = decide (b 2 / 8 % 2 = 1) ∧
    flag p Reference.v1.middle = false ∧
    flag p Reference.v1.ges = decide (b 2 % 2 = 1) ∧ flag p Reference.v1.fin = decide (b 2 / 2 % 2 = 1) ∧
    field p Reference.v2.x = b 1 % 128 + 128 * (b 1 / 128 ||| b 2 / 8 % 16) ∧
    field p Reference.v2.y = b 4 % 128 + 128 * (b 4 / 128 ||| b 3 / 16 % 8) ∧
    field p Reference.v2.z = b 5 ∧
    flag p Reference.v2.left = decide (b 3 % 2 = 1) ∧ flag p Reference.v2.right = decide (b 3 / 2 % 2 = 1) ∧
    flag p Reference.v2.middle = decide (b 3 / 4 % 2 = 1) ∧
    flag p Reference.v2.ges = decide (b 2 % 2 = 1) ∧ flag p Reference.v2.fin = decide (b 2 / 2 % 2 = 1)

/-- R142, R143: the fields of V3 and V3R packets; the buttons are those of V5 too (R160). -/
def Obligations.ReferenceLayoutV3 : Prop :=
  ∀ p : List Byte,
    let b (k : Nat) : Nat := (byteAt p k).toNat
    (∀ l, l = Reference.v3 ∨ l = Reference.v3r →
      field p l.stX = 16 * (b 1 % 128) + 4 * (b 4 / 16 % 4) + b 0 / 16 % 4 ∧
      field p l.stY = 16 * (b 2 % 128) + b 4 % 16 ∧ field p l.pressure = b 5 % 128 ∧
      flag p l.firstMp = decide (b 4 / 64 % 2 = 1) ∧
      flag p l.buttons.left = decide (b 3 % 2 = 1) ∧ flag p l.buttons.right = decide (b 3 / 2 % 2 = 1) ∧
      flag p l.buttons.middle = decide (b 3 / 4 % 2 = 1) ∧ flag p l.buttons.tsLeft = decide (b 3 / 16 % 2 = 1) ∧
      flag p l.buttons.tsRight = decide (b 3 / 32 % 2 = 1) ∧ flag p l.buttons.tsMiddle = decide (b 3 / 64 % 2 = 1)) ∧
    maxField p Reference.v3.fingers + Reference.v3.fingersAdd = b 5 % 4 + 1 ∧
    maxField p Reference.v3r.fingers + Reference.v3r.fingersAdd = max (b 5 % 4) (b 5 / 4 % 4) + 1 ∧
    field p Reference.v3.xMap = 512 * (b 4 / 2 % 64) + 4 * (b 1 % 128) + b 0 / 16 % 4 ∧
    field p Reference.v3.yMap = 256 * (b 3 / 16 % 8) + 2 * (b 2 % 128) + b 4 % 2 ∧
    field p Reference.v3r.xMap = 32768 * (b 5 / 16 % 2) + 512 * (b 4 / 2 % 64) + 4 * (b 1 % 128) + b 0 / 16 % 4 ∧
    field p Reference.v3r.yMap = 2048 * (b 5 / 32 % 2) + 256 * (b 3 / 16 % 8) + 2 * (b 2 % 128) + b 4 % 2

/-- R151, R154, R160, R170: the fields of V4 packets, a V4 group's bitmaps from its six collected bytes, the fields of V6
position packets, and the fields of V5 packets with the 35-bit profile word. -/
def Obligations.ReferenceLayoutV4V5V6 : Prop :=
  ∀ p : List Byte,
    let b (k : Nat) : Nat := (byteAt p k).toNat
    field p Reference.v4.stX = 16 * (b 1 % 128) + 4 * (b 3 / 16 % 4) + b 0 / 16 % 4 ∧
    field p Reference.v4.stY = 16 * (b 2 % 128) + b 3 % 16 ∧ field p Reference.v4.pressure = b 5 % 128 ∧
    flag p Reference.v4.left = decide (b 4 % 2 = 1) ∧ flag p Reference.v4.right = decide (b 4 / 2 % 2 = 1) ∧
    Reference.v4.mapBytes = [6, 7] ∧
    field p Reference.v4.xMap = 1024 * (b 2 % 32) + 256 * (b 3 / 32 % 4) + 4 * (b 0 % 64) + b 1 / 32 % 4 ∧
    field p Reference.v4.yMap = 1024 * (b 5 % 2) + 32 * (b 3 % 32) + b 1 % 32 ∧
    field p Reference.v6.x = b 1 % 128 + 128 * (b 1 / 128 ||| b 3 / 8 % 16) ∧
    field p Reference.v6.y = b 2 % 128 + 128 * (b 2 / 128 ||| b 4 / 8 % 16) ∧ field p Reference.v6.z = b 5 ∧
    flag p Reference.v6.left = decide (b 3 % 2 = 1) ∧ flag p Reference.v6.right = decide (b 3 / 2 % 2 = 1) ∧
    flag p Reference.v5.firstMp = decide (b 0 / 2 % 2 = 1) ∧
    field p Reference.v5.stX = 128 * (b 4 % 16) + b 1 % 128 ∧ field p Reference.v5.stY = 128 * (b 4 / 16) + b 2 % 128 ∧
    field p Reference.v5.pressure = b 5 % 128 ∧ passesAll p Reference.v5.noTouch = decide (b 0 / 4 % 2 = 1) ∧
    Reference.v5.buttons = Reference.v3.buttons ∧
    field p Reference.v5.fingers = 4 * (b 0 / 16 % 2) + b 0 / 2 % 4 ∧
    field p Reference.v5.palm =
      2 ^ 34 * (b 0 % 2) + 2 ^ 31 * (b 3 / 16 % 8) + 2 ^ 28 * (b 3 % 8) + 2 ^ 21 * (b 5 % 128) + 2 ^ 14 * (b 4 % 128) +
        2 ^ 7 * (b 2 % 128) + b 1 % 128

/-- R182, R183, R186, R187: the positions of V7 packets with the y axis inverted, the false touch of a TWO packet, the button and
finger bits, the pressure 0, and npos as the number of nonzero positions. -/
def Obligations.ReferenceLayoutV7 : Prop :=
  ∀ p : List Byte,
    let b (k : Nat) : Nat := (byteAt p k).toNat
    let l := Reference.v7
    let x1 : Nat := 2048 * (b 3 / 128) + 1024 * (b 4 / 128) + 16 * (b 4 % 64)
    let y1 : Nat := 1024 * (b 5 / 128) + 16 * (b 5 % 64) + 15
    v7First l p =
      ⟨((2048 * (b 2 / 128) + 32 * (b 2 % 64) + 8 * (b 3 / 16 % 4) + b 3 % 8 : Nat) : Int),
        2047 - ((8 * b 1 + b 0 % 8 : Nat) : Int)⟩ ∧
    v7Second l p = (if x1 = 4080 ∧ y1 = 2047 then ⟨0, 0⟩ else ⟨(x1 : Int), 2047 - (y1 : Int)⟩) ∧
    v7SecondM l p =
      ⟨((2048 * (b 3 / 128) + 1024 * (b 4 / 128) + 64 * (b 4 % 64 / 4) : Nat) : Int),
        2047 - ((1024 * (b 5 / 128) + 64 * (b 5 % 64 / 4) + 32 * (b 4 / 2 % 2) + 31 : Nat) : Int)⟩ ∧
    l.fingersBase + field p l.fingersMore = 3 + b 5 % 4 ∧ field p l.pressure = 0 ∧ l.npos = .nonzero ∧
    flag p l.left = decide (b 0 / 128 = 1) ∧ flag p l.right = decide (b 0 / 32 % 2 = 1) ∧
    flag p l.middle = decide (b 0 / 16 % 2 = 1) ∧ flag p l.padFingerA = decide (b 0 / 32 % 2 = 1) ∧
    flag p l.padFingerB = decide (b 0 / 16 % 2 = 1)

/-- R197, R198, R199, R201: the fields of V8 and SS4-Plus packets; a position of a SS4-Plus TWO or MULTI packet has half the x
weights of V8's. -/
def Obligations.ReferenceLayoutSS4 : Prop :=
  ∀ p : List Byte,
    let b (k : Nat) : Nat := (byteAt p k).toNat
    let y (k : Nat) : Nat := 512 * (b (k + 2) / 32) + 32 * (b (k + 2) % 16) + 16 * (b (k + 1) / 2 % 2)
    (∀ l w, (l = Reference.v8 ∧ w = 2) ∨ (l = Reference.ss4p ∧ w = 1) →
      field p l.stdX0 = w * (128 * (b 1 / 8) + 16 * (b 0 % 8)) ∧ field p l.stdX1 = w * (128 * (b 4 / 8) + 16 * (b 3 % 8)) ∧
      field p l.btlX0 = w * (128 * (b 1 / 8) + 16 * (b 0 % 8) + 8 * (b 0 / 128)) ∧
      field p l.btlX1 = w * (128 * (b 4 / 8) + 16 * (b 3 % 8) + 8 * (b 3 / 128)) ∧
      field p l.stdY0 = y 0 ∧ field p l.stdY1 = y 3 ∧
      field p l.btlY0 = y 0 + 8 * (b 0 / 64 % 2) ∧ field p l.btlY1 = y 3 + 8 * (b 3 / 64 % 2) ∧
      field p l.oneX = 1024 * (b 2 / 32) + 128 * (b 1 / 32) + 8 * (b 1 % 16) + b 0 % 8 ∧
      field p l.oneY = 1024 * (b 4 / 32 % 4) + 64 * (b 4 % 16) + 16 * (b 3 / 64) + b 2 % 16 ∧
      (field p l.oneZ * l.oneZMul) &&& l.oneZMask = 2 * (16 * (b 5 / 32 % 4) + b 5 % 16) ∧
      (field p l.mfZ0 ≠ 0 ↔ b 1 % 2 = 1 ∨ b 1 / 4 % 2 = 1) ∧ field p l.mfZ1 = b 4 % 2 + 2 * (b 4 / 4 % 2) ∧
      l.twoPressure = 48 ∧
      flag p l.cont = decide (b 2 / 16 % 2 = 1) ∧ flag p l.left = decide (b 0 / 32 % 2 = 1) ∧
      flag p l.right = decide (b 0 / 64 % 2 = 1) ∧ flag p l.middle = decide (b 0 / 128 = 1) ∧
      l.noX = 4080 * w ∧ l.noY = 4080 ∧ l.padNoX = 4088 * w ∧ l.padNoY = 4088)

/-- R146, R149, R172, R189, R199, R204, R214: the trackstick packets of the six reference layouts: the signed deltas and the
pressure (in V6 two bits share the sign), the button bits, the divisors, the two reject tests of V3 and V3R, and the lift marker
of V6. -/
def Obligations.ReferenceLayoutSticks : Prop :=
  ∀ p : List Byte,
    let b (k : Nat) : Int := (byteAt p k).toNat
    let bit (k i : Nat) : Bool := decide ((byteAt p k).toNat / 2 ^ i % 2 = 1)
    let delta (t : Terms) : Int := (BitVec.ofNat 8 (field p t)).toInt
    Reference.v3.stick = Reference.v3Stick ∧ Reference.v3r.stick = Reference.v3Stick ∧
    Reference.v8.stick = Reference.ss4Stick ∧ Reference.ss4p.stick = Reference.ss4Stick ∧
    (∀ l, l = Reference.v3Stick ∨ l = Reference.v6.stick →
      flag p l.left = bit 3 0 ∧ flag p l.right = bit 3 1 ∧ flag p l.middle = bit 3 2) ∧
    flag p Reference.v7.stick.left = bit 1 0 ∧ flag p Reference.v7.stick.right = bit 1 1 ∧
    flag p Reference.v7.stick.middle = bit 1 2 ∧
    flag p Reference.ss4Stick.left = bit 0 5 ∧ flag p Reference.ss4Stick.right = bit 0 6 ∧
    flag p Reference.ss4Stick.middle = bit 0 7 ∧
    Reference.v3Stick.xDiv = 8 ∧ Reference.v3Stick.yDiv = 8 ∧ Reference.v6.stick.xDiv = 4 ∧ Reference.v6.stick.yDiv = 4 ∧
    Reference.v3Stick.reject.any (passesAll p) =
      (!bit 0 6 || decide ((byteAt p 1).toNat = 0x7F ∧ (byteAt p 2).toNat = 0x7F ∧ (byteAt p 4).toNat = 0x7F)) ∧
    Reference.v3Stick.lift = none ∧ Reference.v6.stick.lift = some (0x7F, 0x7F, 0x7F) ∧
    Reference.v6.stick.reject.any (passesAll p) = false ∧
    (∀ l, l = Reference.v7.stick ∨ l = Reference.ss4Stick →
      l.xDiv = 1 ∧ l.yDiv = 1 ∧ l.lift = none ∧ l.reject.any (passesAll p) = false) ∧
    delta Reference.v3Stick.x = b 1 % 128 - 128 * (b 0 / 32 % 2) ∧
    delta Reference.v3Stick.y = b 2 % 128 - 128 * (b 0 / 16 % 2) ∧ (field p Reference.v3Stick.z : Int) = b 4 % 128 ∧
    delta Reference.v6.stick.x = b 1 % 128 - 128 * max (b 1 / 128) (b 3 / 32 % 2) ∧
    delta Reference.v6.stick.y = b 2 % 128 - 128 * max (b 2 / 128) (b 3 / 64 % 2) ∧
    (field p Reference.v6.stick.z : Int) = b 4 ∧
    delta Reference.v7.stick.x = b 2 % 64 + 64 * (b 3 / 16 % 2) - 128 * (b 2 / 128) ∧
    delta Reference.v7.stick.y = b 3 % 8 + 8 * (b 4 / 8 % 8) + 64 * (b 3 / 32 % 2) - 128 * (b 4 / 128) ∧
    (field p Reference.v7.stick.z : Int) = b 5 % 64 + 64 * (b 3 / 128) ∧
    delta Reference.ss4Stick.x = b 1 % 128 - 128 * (b 0 % 2) ∧
    delta Reference.ss4Stick.y = b 2 % 128 - 128 * (b 3 % 2) ∧ (field p Reference.ss4Stick.z : Int) = b 4 % 128

/-- R131, R141, R151, R160, R170, R181, R196: the classes of the reference classifiers, in the rules' order of tests. R78: the first
bytes that pass the reference byte-0 patterns, those of the other V2 models among them; those of V6 and V9 are open. R76: the
reference packet lengths; that of V9 is open. -/
def Obligations.ReferenceClassifiers : Prop :=
  ∀ (p : List Byte) (caps : List Cap),
    let b (k : Nat) : Nat := (byteAt p k).toNat
    let bit (k i : Nat) : Prop := (byteAt p k).toNat / 2 ^ i % 2 = 1
    let cls (f : Family) : Nibble := classifyPacket (Reference.classify.get f) p caps
    let fits (f : Family) : Prop := ∃ q, Reference.byte0.get f = some q ∧ byteAt p 0 &&& q.mask0 = q.byte0
    (fits .v1 ↔ b 0 / 8 = 0x11) ∧ (fits .v2 ↔ b 0 / 8 = 0x1F) ∧
    (∀ f, f = .v3 ∨ f = .v3r ∨ f = .v4 → (fits f ↔ bit 0 7 ∧ b 0 % 16 = 0xF)) ∧
    (fits .v5 ↔ bit 0 7 ∧ bit 0 6 ∧ bit 0 3) ∧ (fits .v7 ↔ bit 0 6 ∧ bit 0 3) ∧
    (∀ f, f = .v8 ∨ f = .ss4p → (fits f ↔ bit 0 4 ∧ bit 0 3)) ∧
    Reference.byte0.get .v6 = none ∧ Reference.byte0.get .v9 = none ∧
    (Reference.byte0OtherV2.map fun q => decide (byteAt p 0 &&& q.mask0 = q.byte0)) =
      [decide (b 0 / 64 = 3 ∧ b 0 % 16 = 15), decide (b 0 / 32 = 7 ∧ b 0 % 16 = 15), decide (b 0 / 128 = 1 ∧ b 0 % 16 = 15),
       decide (b 0 = 255)] ∧
    (∀ f, f ≠ .v9 → Reference.pktLen.get f = if f = .v4 then 8 else 6) ∧
    cls .v1 = (if .dualpoint ∈ caps ∧ b 5 = 127 then 5 else 1) ∧ cls .v2 = cls .v1 ∧
    cls .v3 = (if b 5 = 0x3F then 5 else if bit 0 6 then 3 else 1) ∧
    cls .v3r = (if b 5 = 0x3F then 5 else if bit 5 6 then 3 else 1) ∧
    cls .v4 = (if bit 6 6 then 1 else 3) ∧ cls .v5 = (if bit 0 5 then 3 else 1) ∧ cls .v6 = (if b 5 = 0x7F then 5 else 1) ∧
    cls .v7 =
      (if b 0 = 0x48 ∧ ¬bit 4 6 ∧ b 4 % 8 = 6 then 5
        else if bit 4 6 then 2
        else if bit 4 0 then 3
        else if bit 0 4 ∧ ¬bit 4 6 ∧ ¬bit 4 1 ∧ ¬bit 4 0 then 4
        else if b 1 = 0 ∧ b 4 = 0 then 0
        else 6) ∧
    cls .v8 =
      (if b 3 / 16 % 4 = 0 then
        if b 0 = 0x18 ∧ b 1 = 0x10 ∧ b 2 = 0 ∧ ¬bit 3 7 ∧ bit 3 3 ∧ b 4 = 0x10 ∧ b 5 = 0 then 0 else 1
        else if b 3 / 16 % 4 = 1 then 2
        else if b 3 / 16 % 4 = 2 then 5
        else 3) ∧
    cls .ss4p = cls .v8
end

