-- ==== Sys2Proof/Laws/Bitmap.lean ====
section
/-!
SUPPORT. The asserted positions of a bitmap (43_bitmap.md R221): which they are, and that the ends of the list are the extremes;
its maximal runs (41_decoders_v1_v6.md R154).
-/

namespace Sys2Proof.Machine

/-- No asserted position: every electrode's bit is 0 (R221, R222). -/
theorem asserted_nil {bits m : Nat} : asserted bits m = [] ↔ ∀ i, i < bits → m.testBit i = false := by
  simp [asserted, List.filter_eq_nil_iff]

/-- The first asserted position is the least, the last the greatest (R221, R224). -/
theorem asserted_cons {bits m a : Nat} {l : List Nat} (h : asserted bits m = a :: l) :
    a < bits ∧ m.testBit a = true ∧ (∀ k, k < bits → m.testBit k = true → a ≤ k) ∧
    ∀ k, k < bits → m.testBit k = true → k ≤ (a :: l).getLast (by simp) := by
  have hs : (asserted bits m).Pairwise (· < ·) := List.Pairwise.filter _ List.pairwise_lt_range
  have hmem : ∀ k, k ∈ asserted bits m ↔ k < bits ∧ m.testBit k = true := by simp [asserted]
  rw [h] at hs
  simp only [h] at hmem
  have ha := (hmem a).1 (by simp)
  refine ⟨ha.1, ha.2, fun k hk hb => ?_, fun k hk hb => ?_⟩
  · rcases List.mem_cons.1 ((hmem k).2 ⟨hk, hb⟩) with rfl | hk
    · rfl
    · exact (List.rel_of_pairwise_cons hs hk).le
  · have : ∀ (l : List Nat) (hl : l ≠ []), l.Pairwise (· < ·) → ∀ k ∈ l, k ≤ l.getLast hl := by
      intro l
      induction l with
      | nil => intro hl; exact absurd rfl hl
      | cons x t ih =>
        intro hl hp k hk
        cases t with
        | nil => simp at hk; simp [hk]
        | cons y t =>
          rw [List.getLast_cons (by simp)]
          rcases List.mem_cons.1 hk with rfl | hk
          · exact ((List.rel_of_pairwise_cons hp (List.mem_cons_self ..)).le).trans (ih (by simp) hp.of_cons y (by simp))
          · exact ih _ hp.of_cons k hk
    exact this _ _ hs k ((hmem k).2 ⟨hk, hb⟩)

/-- The last asserted position is asserted. -/
theorem asserted_last {bits m a : Nat} {l : List Nat} (h : asserted bits m = a :: l) :
    (a :: l).getLast (by simp) < bits ∧ m.testBit ((a :: l).getLast (by simp)) = true := by
  have hmem : ∀ k, k ∈ asserted bits m ↔ k < bits ∧ m.testBit k = true := by simp [asserted]
  rw [h] at hmem
  exact (hmem _).1 (List.getLast_mem _)

/-! ### Runs -/

/-- From an asserted position a run goes up to a last position (R154). -/
theorem run_end (bits m : Nat) : ∀ d i, bits - i = d → i < bits → m.testBit i = true →
    ∃ j, i ≤ j ∧ j < bits ∧ (∀ k, i ≤ k → k ≤ j → m.testBit k = true) ∧ (j + 1 = bits ∨ m.testBit (j + 1) = false) := by
  intro d
  induction d with
  | zero => intro i h h2; omega
  | succ d ih =>
    intro i h hi hb
    have one : ∀ k, i ≤ k → k ≤ i → m.testBit k = true := fun k a b => by rwa [show k = i by omega]
    by_cases h1 : i + 1 = bits
    · exact ⟨i, le_refl _, hi, one, .inl h1⟩
    · cases hc : m.testBit (i + 1) with
      | false => exact ⟨i, le_refl _, hi, one, .inr hc⟩
      | true =>
        obtain ⟨j, a, b, c, e⟩ := ih (i + 1) (by omega) (by omega) hc
        refine ⟨j, by omega, b, fun k x y => ?_, e⟩
        by_cases hk : k = i
        · rwa [hk]
        · exact c k (by omega) y

/-- Two maximal runs with one first position are one. -/
theorem MaximalRun.unique {bits m lo hi hi' : Nat} (a : MaximalRun bits m lo hi) (b : MaximalRun bits m lo hi') : hi = hi' := by
  rcases Nat.lt_trichotomy hi hi' with h | h | h
  · have := b.ones (hi + 1) (by have := a.order; omega) (by omega)
    have := b.inside
    rcases a.right with h | h <;> [omega; simp_all]
  · exact h
  · have := a.ones (hi' + 1) (by have := b.order; omega) (by omega)
    have := a.inside
    rcases b.right with h | h <;> [omega; simp_all]

/-- RUNS counts the maximal runs (R154). -/
theorem runs_counts (bits m : Nat) : CountsRuns bits m (runs bits m) := by
  classical
  let P := fun i => m.testBit i && (i == 0 || !m.testBit (i - 1))
  have hP : ∀ i, i < bits → P i = true → ∃ j, MaximalRun bits m i j := by
    intro i hi hp
    simp only [P, Bool.and_eq_true, Bool.or_eq_true, beq_iff_eq, Bool.not_eq_true'] at hp
    obtain ⟨j, a, b, c, d⟩ := run_end bits m _ i rfl hi hp.1
    exact ⟨j, a, b, c, hp.2, d⟩
  let E : Nat → Nat := fun i => if h : ∃ j, MaximalRun bits m i j then h.choose else 0
  have hE : ∀ i j, MaximalRun bits m i j → E i = j := by
    intro i j h
    have hh : ∃ j, MaximalRun bits m i j := ⟨j, h⟩
    simp only [E, hh, dif_pos]
    exact hh.choose_spec.unique h
  refine ⟨((List.range bits).filter P).map fun i => (i, E i), ?_, ?_, by simp [runs, P]⟩
  · exact (List.nodup_range.filter _).map fun a b h => by simpa using congrArg Prod.fst h
  · rintro ⟨lo, hi⟩
    simp only [List.mem_map, List.mem_filter, List.mem_range, Prod.mk.injEq]
    constructor
    · rintro ⟨i, ⟨h1, h2⟩, rfl, rfl⟩
      obtain ⟨j, hj⟩ := hP i h1 h2
      rwa [hE _ _ hj]
    · intro h
      refine ⟨lo, ⟨by have := h.order; have := h.inside; omega, ?_⟩, rfl, hE _ _ h⟩
      have h1 := h.ones lo (le_refl _) h.order
      simp only [P, h1, Bool.true_and, Bool.or_eq_true, beq_iff_eq, Bool.not_eq_true']
      exact h.left

end Sys2Proof.Machine
end

