-- ==== Sys2Proof/Laws/State.lean ====
section
/-!
SUPPORT. One lemma for each field a shared operation leaves alone, and for each value it writes: true by unfolding the one
operation, tagged simp, so that no later proof unfolds a record update.
-/

namespace Sys2Proof.Machine

section ctxResetFields

variable (s : State)

@[simp] theorem ctxReset_cfg : (ctxReset s).cfg = s.cfg := rfl
@[simp] theorem ctxReset_inbox : (ctxReset s).inbox = s.inbox := rfl
@[simp] theorem ctxReset_opnd : (ctxReset s).opnd = s.opnd := rfl
@[simp] theorem ctxReset_devState : (ctxReset s).devState = s.devState := rfl
@[simp] theorem ctxReset_desc : (ctxReset s).desc = s.desc := rfl
@[simp] theorem ctxReset_fields : (ctxReset s).fields = s.fields := rfl
@[simp] theorem ctxReset_vf : (ctxReset s).vf = s.vf := rfl
@[simp] theorem ctxReset_bench : (ctxReset s).bench = s.bench := rfl
@[simp] theorem ctxReset_status : (ctxReset s).status = s.status := rfl
@[simp] theorem ctxReset_report : (ctxReset s).report = s.report := rfl
@[simp] theorem ctxReset_refused : (ctxReset s).refused = s.refused := rfl
@[simp] theorem ctxReset_ret : (ctxReset s).ret = s.ret := rfl
@[simp] theorem ctxReset_fwVersion : (ctxReset s).ctx.fwVersion = s.ctx.fwVersion := rfl
@[simp] theorem ctxReset_mpMem : (ctxReset s).ctx.mpMem = s.ctx.mpMem := rfl
@[simp] theorem ctxReset_mpFields : (ctxReset s).ctx.mpFields = s.ctx.mpFields := rfl
@[simp] theorem ctxReset_prevFin : (ctxReset s).ctx.prevFin = false := rfl
@[simp] theorem ctxReset_mpOpen : (ctxReset s).ctx.mpOpen = false := rfl
@[simp] theorem ctxReset_mpFill : (ctxReset s).ctx.mpFill = 0 := rfl
@[simp] theorem ctxReset_bmPrevValid : (ctxReset s).ctx.bmPrevValid = false := rfl
@[simp] theorem ctxReset_bmOrient : (ctxReset s).ctx.bmOrient = s.cfg.initOrient := rfl

end ctxResetFields

section abandonFields

variable (s : State)

@[simp] theorem abandon_cfg : (abandon s).cfg = s.cfg := by
  unfold abandon; split <;> rfl
@[simp] theorem abandon_inbox : (abandon s).inbox = s.inbox := by
  unfold abandon; split <;> rfl
@[simp] theorem abandon_opnd : (abandon s).opnd = s.opnd := by
  unfold abandon; split <;> rfl
@[simp] theorem abandon_devState : (abandon s).devState = s.devState := by
  unfold abandon; split <;> rfl
@[simp] theorem abandon_desc : (abandon s).desc = s.desc := by
  unfold abandon; split <;> rfl
@[simp] theorem abandon_fields : (abandon s).fields = s.fields := by
  unfold abandon; split <;> rfl
@[simp] theorem abandon_vf : (abandon s).vf = s.vf := by
  unfold abandon; split <;> rfl
@[simp] theorem abandon_bench : (abandon s).bench = s.bench := by
  unfold abandon; split <;> rfl
@[simp] theorem abandon_status : (abandon s).status = s.status := by
  unfold abandon; split <;> rfl
@[simp] theorem abandon_report : (abandon s).report = s.report := by
  unfold abandon; split <;> rfl
@[simp] theorem abandon_refused : (abandon s).refused = s.refused := by
  unfold abandon; split <;> rfl
@[simp] theorem abandon_ret : (abandon s).ret = s.ret := by
  unfold abandon; split <;> rfl
theorem abandon_ctx : (abandon s).ctx = if s.ctx.mpOpen then s.ctx.close else s.ctx := by
  unfold abandon; split <;> rfl
theorem abandon_of_closed (h : s.ctx.mpOpen = false) : abandon s = s := by simp [abandon, h]
theorem abandon_of_open (h : s.ctx.mpOpen = true) : abandon s = { s with ctx := s.ctx.close } := by simp [abandon, h]
@[simp] theorem abandon_mpOpen : (abandon s).ctx.mpOpen = false := by
  cases h : s.ctx.mpOpen <;> simp [abandon, h, Ctx.close]

end abandonFields

section raiseErrorFields

variable (e : ErrorKind) (s : State)

@[simp] theorem raiseError_cfg : (raiseError e s).cfg = s.cfg := rfl
@[simp] theorem raiseError_inbox : (raiseError e s).inbox = s.inbox := rfl
@[simp] theorem raiseError_opnd : (raiseError e s).opnd = s.opnd := rfl
@[simp] theorem raiseError_devState : (raiseError e s).devState = s.devState := rfl
@[simp] theorem raiseError_desc : (raiseError e s).desc = s.desc := rfl
@[simp] theorem raiseError_ctx : (raiseError e s).ctx = s.ctx := rfl
@[simp] theorem raiseError_fields : (raiseError e s).fields = s.fields := rfl
@[simp] theorem raiseError_vf : (raiseError e s).vf = s.vf := rfl
@[simp] theorem raiseError_bench : (raiseError e s).bench = s.bench := rfl
@[simp] theorem raiseError_report : (raiseError e s).report = s.report := rfl
@[simp] theorem raiseError_refused : (raiseError e s).refused = s.refused := rfl
@[simp] theorem raiseError_ret : (raiseError e s).ret = s.ret := rfl
@[simp] theorem raiseError_result : (raiseError e s).status.result = .error := rfl
@[simp] theorem raiseError_err : (raiseError e s).status.err = e.code := rfl
@[simp] theorem raiseError_cap : (raiseError e s).status.cap = s.status.cap := rfl
@[simp] theorem raiseError_emit : (raiseError e s).status.emit = s.status.emit := rfl

end raiseErrorFields

section raiseOutOfSequenceFields

variable (s : State)

@[simp] theorem raiseOutOfSequence_cfg : (raiseOutOfSequence s).cfg = s.cfg := rfl
@[simp] theorem raiseOutOfSequence_inbox : (raiseOutOfSequence s).inbox = s.inbox := rfl
@[simp] theorem raiseOutOfSequence_opnd : (raiseOutOfSequence s).opnd = s.opnd := rfl
@[simp] theorem raiseOutOfSequence_devState : (raiseOutOfSequence s).devState = s.devState := rfl
@[simp] theorem raiseOutOfSequence_desc : (raiseOutOfSequence s).desc = s.desc := rfl
@[simp] theorem raiseOutOfSequence_fields : (raiseOutOfSequence s).fields = s.fields := rfl
@[simp] theorem raiseOutOfSequence_vf : (raiseOutOfSequence s).vf = s.vf := rfl
@[simp] theorem raiseOutOfSequence_bench : (raiseOutOfSequence s).bench = s.bench := rfl
@[simp] theorem raiseOutOfSequence_report : (raiseOutOfSequence s).report = s.report := rfl
@[simp] theorem raiseOutOfSequence_refused : (raiseOutOfSequence s).refused = s.refused := rfl
@[simp] theorem raiseOutOfSequence_ret : (raiseOutOfSequence s).ret = s.ret := rfl
@[simp] theorem raiseOutOfSequence_ctx : (raiseOutOfSequence s).ctx = (ctxReset s).ctx := rfl

end raiseOutOfSequenceFields

section refuseFields

variable (s : State)

@[simp] theorem refuse_cfg : (refuse s).cfg = s.cfg := rfl
@[simp] theorem refuse_inbox : (refuse s).inbox = s.inbox := rfl
@[simp] theorem refuse_opnd : (refuse s).opnd = s.opnd := rfl
@[simp] theorem refuse_devState : (refuse s).devState = s.devState := rfl
@[simp] theorem refuse_desc : (refuse s).desc = s.desc := rfl
@[simp] theorem refuse_ctx : (refuse s).ctx = s.ctx := rfl
@[simp] theorem refuse_fields : (refuse s).fields = s.fields := rfl
@[simp] theorem refuse_vf : (refuse s).vf = s.vf := rfl
@[simp] theorem refuse_bench : (refuse s).bench = s.bench := rfl
@[simp] theorem refuse_report : (refuse s).report = s.report := rfl
@[simp] theorem refuse_ret : (refuse s).ret = s.ret := rfl
@[simp] theorem refuse_refused : (refuse s).refused = true := rfl
@[simp] theorem refuse_status : (refuse s).status = ⟨.refused, 0, false, false⟩ := rfl

end refuseFields

section freshFieldsFields

variable (s : State)

@[simp] theorem freshFields_cfg : (freshFields s).cfg = s.cfg := rfl
@[simp] theorem freshFields_inbox : (freshFields s).inbox = s.inbox := rfl
@[simp] theorem freshFields_opnd : (freshFields s).opnd = s.opnd := rfl
@[simp] theorem freshFields_devState : (freshFields s).devState = s.devState := rfl
@[simp] theorem freshFields_desc : (freshFields s).desc = s.desc := rfl
@[simp] theorem freshFields_ctx : (freshFields s).ctx = s.ctx := rfl
@[simp] theorem freshFields_vf : (freshFields s).vf = s.vf := rfl
@[simp] theorem freshFields_bench : (freshFields s).bench = s.bench := rfl
@[simp] theorem freshFields_report : (freshFields s).report = s.report := rfl
@[simp] theorem freshFields_refused : (freshFields s).refused = s.refused := rfl
@[simp] theorem freshFields_ret : (freshFields s).ret = s.ret := rfl
@[simp] theorem freshFields_fields : (freshFields s).fields = Fields.zero := rfl
@[simp] theorem freshFields_status : (freshFields s).status = Status.silent := rfl

end freshFieldsFields

section beginPacketFields

variable (c : PacketClass) (s : State)

@[simp] theorem beginPacket_cfg : (beginPacket c s).cfg = s.cfg := rfl
@[simp] theorem beginPacket_inbox : (beginPacket c s).inbox = s.inbox := rfl
@[simp] theorem beginPacket_opnd : (beginPacket c s).opnd = s.opnd := rfl
@[simp] theorem beginPacket_devState : (beginPacket c s).devState = s.devState := rfl
@[simp] theorem beginPacket_desc : (beginPacket c s).desc = s.desc := rfl
@[simp] theorem beginPacket_ctx : (beginPacket c s).ctx = s.ctx := rfl
@[simp] theorem beginPacket_vf : (beginPacket c s).vf = s.vf := rfl
@[simp] theorem beginPacket_bench : (beginPacket c s).bench = s.bench := rfl
@[simp] theorem beginPacket_report : (beginPacket c s).report = s.report := rfl
@[simp] theorem beginPacket_refused : (beginPacket c s).refused = s.refused := rfl
@[simp] theorem beginPacket_ret : (beginPacket c s).ret = s.ret := rfl
@[simp] theorem beginPacket_fields : (beginPacket c s).fields = { Fields.zero with cls := c.code } := rfl
@[simp] theorem beginPacket_status : (beginPacket c s).status = Status.silent := rfl

end beginPacketFields

section resetAllFields

variable (s : State)

@[simp] theorem resetAll_cfg : (resetAll s).cfg = s.cfg := rfl
@[simp] theorem resetAll_inbox : (resetAll s).inbox = s.inbox := rfl
@[simp] theorem resetAll_opnd : (resetAll s).opnd = s.opnd := rfl
@[simp] theorem resetAll_desc : (resetAll s).desc = s.desc := rfl
@[simp] theorem resetAll_status : (resetAll s).status = s.status := rfl
@[simp] theorem resetAll_refused : (resetAll s).refused = s.refused := rfl
@[simp] theorem resetAll_ret : (resetAll s).ret = s.ret := rfl
@[simp] theorem resetAll_devState : (resetAll s).devState = .unidentified := rfl
@[simp] theorem resetAll_fields : (resetAll s).fields = Fields.zero := rfl
@[simp] theorem resetAll_vf (i : Nat) (h : i < 5) : (resetAll s).vf[i] = (s.vf[i]).clear := by
  match i with
  | 0 | 1 | 2 | 3 | 4 => rfl
@[simp] theorem resetAll_bench : (resetAll s).bench = s.bench.clear := rfl
@[simp] theorem resetAll_report : (resetAll s).report = Report.empty := rfl
@[simp] theorem resetAll_prevFin : (resetAll s).ctx.prevFin = false := rfl
@[simp] theorem resetAll_mpOpen : (resetAll s).ctx.mpOpen = false := rfl
@[simp] theorem resetAll_mpFill : (resetAll s).ctx.mpFill = 0 := rfl
@[simp] theorem resetAll_mpMem : (resetAll s).ctx.mpMem = s.ctx.mpMem := rfl
@[simp] theorem resetAll_mpFields : (resetAll s).ctx.mpFields = s.ctx.mpFields := rfl
@[simp] theorem resetAll_fwVersion : (resetAll s).ctx.fwVersion = ⟨0, 0, 0⟩ := rfl
@[simp] theorem resetAll_bmPrevValid : (resetAll s).ctx.bmPrevValid = false := rfl
@[simp] theorem resetAll_bmOrient : (resetAll s).ctx.bmOrient = s.cfg.initOrient := rfl

end resetAllFields

section returnValueFields

variable (v : Int) (s : State)

@[simp] theorem returnValue_cfg : (returnValue v s).cfg = s.cfg := rfl
@[simp] theorem returnValue_inbox : (returnValue v s).inbox = s.inbox := rfl
@[simp] theorem returnValue_opnd : (returnValue v s).opnd = s.opnd := rfl
@[simp] theorem returnValue_devState : (returnValue v s).devState = s.devState := rfl
@[simp] theorem returnValue_desc : (returnValue v s).desc = s.desc := rfl
@[simp] theorem returnValue_ctx : (returnValue v s).ctx = s.ctx := rfl
@[simp] theorem returnValue_fields : (returnValue v s).fields = s.fields := rfl
@[simp] theorem returnValue_vf : (returnValue v s).vf = s.vf := rfl
@[simp] theorem returnValue_bench : (returnValue v s).bench = s.bench := rfl
@[simp] theorem returnValue_status : (returnValue v s).status = s.status := rfl
@[simp] theorem returnValue_report : (returnValue v s).report = s.report := rfl
@[simp] theorem returnValue_refused : (returnValue v s).refused = s.refused := rfl
@[simp] theorem returnValue_ret : (returnValue v s).ret = { s.ret with value := v } := rfl

end returnValueFields

section setInstFields

variable (s : State) (i : Inst) (f : Filter)

@[simp] theorem setInst_cfg : (setInst s i f).cfg = s.cfg := by
  cases i <;> rfl
@[simp] theorem setInst_inbox : (setInst s i f).inbox = s.inbox := by
  cases i <;> rfl
@[simp] theorem setInst_opnd : (setInst s i f).opnd = s.opnd := by
  cases i <;> rfl
@[simp] theorem setInst_devState : (setInst s i f).devState = s.devState := by
  cases i <;> rfl
@[simp] theorem setInst_desc : (setInst s i f).desc = s.desc := by
  cases i <;> rfl
@[simp] theorem setInst_ctx : (setInst s i f).ctx = s.ctx := by
  cases i <;> rfl
@[simp] theorem setInst_fields : (setInst s i f).fields = s.fields := by
  cases i <;> rfl
@[simp] theorem setInst_status : (setInst s i f).status = s.status := by
  cases i <;> rfl
@[simp] theorem setInst_report : (setInst s i f).report = s.report := by
  cases i <;> rfl
@[simp] theorem setInst_refused : (setInst s i f).refused = s.refused := by
  cases i <;> rfl
@[simp] theorem setInst_ret : (setInst s i f).ret = s.ret := by
  cases i <;> rfl

end setInstFields

section trackFields

variable (c : List Contact) (b : Bool) (s : State)

@[simp] theorem track_cfg : (track c b s).cfg = s.cfg := rfl
@[simp] theorem track_inbox : (track c b s).inbox = s.inbox := rfl
@[simp] theorem track_opnd : (track c b s).opnd = s.opnd := rfl
@[simp] theorem track_devState : (track c b s).devState = s.devState := rfl
@[simp] theorem track_desc : (track c b s).desc = s.desc := rfl
@[simp] theorem track_ctx : (track c b s).ctx = s.ctx := rfl
@[simp] theorem track_fields : (track c b s).fields = s.fields := rfl
@[simp] theorem track_bench : (track c b s).bench = s.bench := rfl
@[simp] theorem track_report : (track c b s).report = s.report := rfl
@[simp] theorem track_refused : (track c b s).refused = s.refused := rfl
@[simp] theorem track_ret : (track c b s).ret = s.ret := rfl
@[simp] theorem track_vf : (track c b s).vf = (trackPool s.cfg c b s.vf).1 := rfl
@[simp] theorem track_result : (track c b s).status.result = s.status.result := rfl
@[simp] theorem track_err : (track c b s).status.err = s.status.err := rfl
@[simp] theorem track_emit : (track c b s).status.emit = s.status.emit := rfl
@[simp] theorem track_cap : (track c b s).status.cap = (s.status.cap || (trackPool s.cfg c b s.vf).2) := rfl

end trackFields

section emitReportFields

variable (fam : Family) (k : FrameKind) (s : State)

@[simp] theorem emitReport_cfg : (emitReport fam k s).cfg = s.cfg := rfl
@[simp] theorem emitReport_inbox : (emitReport fam k s).inbox = s.inbox := rfl
@[simp] theorem emitReport_opnd : (emitReport fam k s).opnd = s.opnd := rfl
@[simp] theorem emitReport_devState : (emitReport fam k s).devState = s.devState := rfl
@[simp] theorem emitReport_desc : (emitReport fam k s).desc = s.desc := rfl
@[simp] theorem emitReport_ctx : (emitReport fam k s).ctx = s.ctx := rfl
@[simp] theorem emitReport_fields : (emitReport fam k s).fields = s.fields := rfl
@[simp] theorem emitReport_vf : (emitReport fam k s).vf = s.vf := rfl
@[simp] theorem emitReport_bench : (emitReport fam k s).bench = s.bench := rfl
@[simp] theorem emitReport_refused : (emitReport fam k s).refused = s.refused := rfl
@[simp] theorem emitReport_ret : (emitReport fam k s).ret = s.ret := rfl
@[simp] theorem emitReport_report : (emitReport fam k s).report = buildReport fam k s := rfl
@[simp] theorem emitReport_result : (emitReport fam k s).status.result = .frame := rfl
@[simp] theorem emitReport_err : (emitReport fam k s).status.err = s.status.err := rfl
@[simp] theorem emitReport_cap : (emitReport fam k s).status.cap = s.status.cap := rfl
@[simp] theorem emitReport_emit : (emitReport fam k s).status.emit = true := rfl

end emitReportFields

section raiseIfFullFields

variable (s : State)

@[simp] theorem raiseIfFull_cfg : (raiseIfFull s).cfg = s.cfg := by
  unfold raiseIfFull; split <;> rfl
@[simp] theorem raiseIfFull_inbox : (raiseIfFull s).inbox = s.inbox := by
  unfold raiseIfFull; split <;> rfl
@[simp] theorem raiseIfFull_opnd : (raiseIfFull s).opnd = s.opnd := by
  unfold raiseIfFull; split <;> rfl
@[simp] theorem raiseIfFull_devState : (raiseIfFull s).devState = s.devState := by
  unfold raiseIfFull; split <;> rfl
@[simp] theorem raiseIfFull_desc : (raiseIfFull s).desc = s.desc := by
  unfold raiseIfFull; split <;> rfl
@[simp] theorem raiseIfFull_ctx : (raiseIfFull s).ctx = s.ctx := by
  unfold raiseIfFull; split <;> rfl
@[simp] theorem raiseIfFull_fields : (raiseIfFull s).fields = s.fields := by
  unfold raiseIfFull; split <;> rfl
@[simp] theorem raiseIfFull_vf : (raiseIfFull s).vf = s.vf := by
  unfold raiseIfFull; split <;> rfl
@[simp] theorem raiseIfFull_bench : (raiseIfFull s).bench = s.bench := by
  unfold raiseIfFull; split <;> rfl
@[simp] theorem raiseIfFull_report : (raiseIfFull s).report = s.report := by
  unfold raiseIfFull; split <;> rfl
@[simp] theorem raiseIfFull_refused : (raiseIfFull s).refused = s.refused := by
  unfold raiseIfFull; split <;> rfl
@[simp] theorem raiseIfFull_ret : (raiseIfFull s).ret = s.ret := by
  unfold raiseIfFull; split <;> rfl
@[simp] theorem raiseIfFull_cap : (raiseIfFull s).status.cap = s.status.cap := by
  unfold raiseIfFull; split <;> rfl
@[simp] theorem raiseIfFull_emit : (raiseIfFull s).status.emit = s.status.emit := by
  unfold raiseIfFull; split <;> rfl

end raiseIfFullFields

section frameFields

variable (fam : Family) (f : Fields) (s : State)

@[simp] theorem frame_cfg : (frame fam f s).cfg = s.cfg := by
  simp [frame]
@[simp] theorem frame_inbox : (frame fam f s).inbox = s.inbox := by
  simp [frame]
@[simp] theorem frame_opnd : (frame fam f s).opnd = s.opnd := by
  simp [frame]
@[simp] theorem frame_devState : (frame fam f s).devState = s.devState := by
  simp [frame]
@[simp] theorem frame_desc : (frame fam f s).desc = s.desc := by
  simp [frame]
@[simp] theorem frame_ctx : (frame fam f s).ctx = s.ctx := by
  simp [frame]
@[simp] theorem frame_bench : (frame fam f s).bench = s.bench := by
  simp [frame]
@[simp] theorem frame_refused : (frame fam f s).refused = s.refused := by
  simp [frame]
@[simp] theorem frame_ret : (frame fam f s).ret = s.ret := by
  simp [frame]
@[simp] theorem frame_fields : (frame fam f s).fields = frameFields s f := by simp [frame]
@[simp] theorem frame_vf :
    (frame fam f s).vf = (trackPool s.cfg (contactsOf (frameFields s f)) (anyButton (frameFields s f)) s.vf).1 := by
  simp [frame]
@[simp] theorem frame_emit : (frame fam f s).status.emit = true := by simp [frame]
@[simp] theorem frame_cap :
    (frame fam f s).status.cap = (s.status.cap || overFull f ||
      (trackPool s.cfg (contactsOf (frameFields s f)) (anyButton (frameFields s f)) s.vf).2) := by
  simp [frame]

end frameFields

section processIdleFields

variable (fam : Family) (s : State)

@[simp] theorem processIdle_cfg : (processIdle fam s).cfg = s.cfg := by
  unfold processIdle; dsimp only; split <;> rfl
@[simp] theorem processIdle_inbox : (processIdle fam s).inbox = s.inbox := by
  unfold processIdle; dsimp only; split <;> rfl
@[simp] theorem processIdle_opnd : (processIdle fam s).opnd = s.opnd := by
  unfold processIdle; dsimp only; split <;> rfl
@[simp] theorem processIdle_devState : (processIdle fam s).devState = s.devState := by
  unfold processIdle; dsimp only; split <;> rfl
@[simp] theorem processIdle_desc : (processIdle fam s).desc = s.desc := by
  unfold processIdle; dsimp only; split <;> rfl
@[simp] theorem processIdle_ctx : (processIdle fam s).ctx = s.ctx := by
  unfold processIdle; dsimp only; split <;> rfl
@[simp] theorem processIdle_fields : (processIdle fam s).fields = s.fields := by
  unfold processIdle; dsimp only; split <;> rfl
@[simp] theorem processIdle_bench : (processIdle fam s).bench = s.bench := by
  unfold processIdle; dsimp only; split <;> rfl
@[simp] theorem processIdle_refused : (processIdle fam s).refused = s.refused := by
  unfold processIdle; dsimp only; split <;> rfl
@[simp] theorem processIdle_ret : (processIdle fam s).ret = s.ret := by
  unfold processIdle; dsimp only; split <;> rfl
@[simp] theorem processIdle_vf : (processIdle fam s).vf = (trackPool s.cfg [] (anyButton s.fields) s.vf).1 := by
  unfold processIdle; dsimp only; split <;> rfl

end processIdleFields

section processStickFields

variable (fam : Family) (f : Fields) (s : State)

@[simp] theorem processStick_cfg : (processStick fam f s).cfg = s.cfg := rfl
@[simp] theorem processStick_inbox : (processStick fam f s).inbox = s.inbox := rfl
@[simp] theorem processStick_opnd : (processStick fam f s).opnd = s.opnd := rfl
@[simp] theorem processStick_devState : (processStick fam f s).devState = s.devState := rfl
@[simp] theorem processStick_desc : (processStick fam f s).desc = s.desc := rfl
@[simp] theorem processStick_ctx : (processStick fam f s).ctx = s.ctx := rfl
@[simp] theorem processStick_vf : (processStick fam f s).vf = s.vf := rfl
@[simp] theorem processStick_bench : (processStick fam f s).bench = s.bench := rfl
@[simp] theorem processStick_refused : (processStick fam f s).refused = s.refused := rfl
@[simp] theorem processStick_ret : (processStick fam f s).ret = s.ret := rfl
@[simp] theorem processStick_fields : (processStick fam f s).fields = { f with cls := s.fields.cls } := rfl

end processStickFields

section processUnknownFields

variable (fam : Family) (s : State)

@[simp] theorem processUnknown_cfg : (processUnknown fam s).cfg = s.cfg := by
  simp [processUnknown]
@[simp] theorem processUnknown_inbox : (processUnknown fam s).inbox = s.inbox := by
  simp [processUnknown]
@[simp] theorem processUnknown_opnd : (processUnknown fam s).opnd = s.opnd := by
  simp [processUnknown]
@[simp] theorem processUnknown_devState : (processUnknown fam s).devState = s.devState := by
  simp [processUnknown]
@[simp] theorem processUnknown_desc : (processUnknown fam s).desc = s.desc := by
  simp [processUnknown]
@[simp] theorem processUnknown_fields : (processUnknown fam s).fields = s.fields := by
  simp [processUnknown]
@[simp] theorem processUnknown_bench : (processUnknown fam s).bench = s.bench := by
  simp [processUnknown]
@[simp] theorem processUnknown_refused : (processUnknown fam s).refused = s.refused := by
  simp [processUnknown]
@[simp] theorem processUnknown_ret : (processUnknown fam s).ret = s.ret := by
  simp [processUnknown]
@[simp] theorem processUnknown_ctx : (processUnknown fam s).ctx = (ctxReset s).ctx := by simp [processUnknown]

end processUnknownFields

section processPosFields

variable (fam : Family) (f : Fields) (w : Option Bool) (s : State)

@[simp] theorem processPos_cfg : (processPos fam f w s).cfg = s.cfg := by
  unfold processPos; cases w <;> dsimp only <;> split <;> simp
@[simp] theorem processPos_inbox : (processPos fam f w s).inbox = s.inbox := by
  unfold processPos; cases w <;> dsimp only <;> split <;> simp
@[simp] theorem processPos_opnd : (processPos fam f w s).opnd = s.opnd := by
  unfold processPos; cases w <;> dsimp only <;> split <;> simp
@[simp] theorem processPos_devState : (processPos fam f w s).devState = s.devState := by
  unfold processPos; cases w <;> dsimp only <;> split <;> simp
@[simp] theorem processPos_desc : (processPos fam f w s).desc = s.desc := by
  unfold processPos; cases w <;> dsimp only <;> split <;> simp
@[simp] theorem processPos_bench : (processPos fam f w s).bench = s.bench := by
  unfold processPos; cases w <;> dsimp only <;> split <;> simp
@[simp] theorem processPos_refused : (processPos fam f w s).refused = s.refused := by
  unfold processPos; cases w <;> dsimp only <;> split <;> simp
@[simp] theorem processPos_ret : (processPos fam f w s).ret = s.ret := by
  unfold processPos; cases w <;> dsimp only <;> split <;> simp

end processPosFields

section processStoredFields

variable (fam : Family) (f : Fields) (term : Bool) (m : Merge) (s : State)

@[simp] theorem processStored_cfg : (processStored fam f term m s).cfg = s.cfg := by
  unfold processStored; dsimp only; split <;> simp
@[simp] theorem processStored_inbox : (processStored fam f term m s).inbox = s.inbox := by
  unfold processStored; dsimp only; split <;> simp
@[simp] theorem processStored_opnd : (processStored fam f term m s).opnd = s.opnd := by
  unfold processStored; dsimp only; split <;> simp
@[simp] theorem processStored_devState : (processStored fam f term m s).devState = s.devState := by
  unfold processStored; dsimp only; split <;> simp
@[simp] theorem processStored_desc : (processStored fam f term m s).desc = s.desc := by
  unfold processStored; dsimp only; split <;> simp
@[simp] theorem processStored_bench : (processStored fam f term m s).bench = s.bench := by
  unfold processStored; dsimp only; split <;> simp
@[simp] theorem processStored_refused : (processStored fam f term m s).refused = s.refused := by
  unfold processStored; dsimp only; split <;> simp
@[simp] theorem processStored_ret : (processStored fam f term m s).ret = s.ret := by
  unfold processStored; dsimp only; split <;> simp

end processStoredFields

section processContFields

variable (fam : Family) (f : Fields) (term : Bool) (m : Merge) (s : State)

@[simp] theorem processCont_cfg : (processCont fam f term m s).cfg = s.cfg := by
  unfold processCont; split <;> simp
@[simp] theorem processCont_inbox : (processCont fam f term m s).inbox = s.inbox := by
  unfold processCont; split <;> simp
@[simp] theorem processCont_opnd : (processCont fam f term m s).opnd = s.opnd := by
  unfold processCont; split <;> simp
@[simp] theorem processCont_devState : (processCont fam f term m s).devState = s.devState := by
  unfold processCont; split <;> simp
@[simp] theorem processCont_desc : (processCont fam f term m s).desc = s.desc := by
  unfold processCont; split <;> simp
@[simp] theorem processCont_bench : (processCont fam f term m s).bench = s.bench := by
  unfold processCont; split <;> simp
@[simp] theorem processCont_refused : (processCont fam f term m s).refused = s.refused := by
  unfold processCont; split <;> simp
@[simp] theorem processCont_ret : (processCont fam f term m s).ret = s.ret := by
  unfold processCont; split <;> simp

end processContFields

section processFields

variable (fam : Family) (r : Decoded) (s : State)

@[simp] theorem process_cfg : (process fam r s).cfg = s.cfg := by
  cases r <;> simp [process]
@[simp] theorem process_inbox : (process fam r s).inbox = s.inbox := by
  cases r <;> simp [process]
@[simp] theorem process_opnd : (process fam r s).opnd = s.opnd := by
  cases r <;> simp [process]
@[simp] theorem process_devState : (process fam r s).devState = s.devState := by
  cases r <;> simp [process]
@[simp] theorem process_desc : (process fam r s).desc = s.desc := by
  cases r <;> simp [process]
@[simp] theorem process_bench : (process fam r s).bench = s.bench := by
  cases r <;> simp [process]
@[simp] theorem process_refused : (process fam r s).refused = s.refused := by
  cases r <;> simp [process]
@[simp] theorem process_ret : (process fam r s).ret = s.ret := by
  cases r <;> simp [process]

end processFields

end Sys2Proof.Machine
end

