-- ==== Sys2Proof/Laws/Memory.lean ====
section
/-!
SUPPORT. The laws of the byte memory of the multi-packet buffer (20_memory.md R52): a read after a write, and that every memory
operation keeps the canonical form.
-/

namespace Sys2Proof.Machine

/-- The canonical form without its first cell. -/
theorem Memory.wf_tail {c : Host.Cell} {m : Memory} (h : Memory.wf (c :: m)) : Memory.wf m :=
  ⟨(List.pairwise_cons.1 h.1).2, fun d hd => h.2 d (List.mem_cons_of_mem _ hd)⟩

/-- The empty memory is in canonical form. -/
theorem Memory.wf_nil : Memory.wf [] := ⟨List.Pairwise.nil, by simp⟩

/-- An address below every listed one reads as unlisted. -/
theorem Memory.read_below {m : Memory} {a : Nat} (h : ∀ c ∈ m, a < c.1) : Memory.read m a = 0 := by
  induction m with
  | nil => rfl
  | cons c m ih =>
    obtain ⟨b, v⟩ := c
    have hb : a < b := h (b, v) (by simp)
    rw [Memory.read, if_neg (by omega)]
    exact ih fun d hd => h d (by simp [hd])

/-- A write reads back. -/
theorem Memory.read_write_same {m : Memory} (h : m.wf) (a : Nat) (v : Byte) : (m.write a v).read a = v := by
  induction m with
  | nil =>
    rw [Memory.write]
    split
    · next hv => simp [Memory.read, hv]
    · simp [Memory.read]
  | cons c m ih =>
    obtain ⟨b, w⟩ := c
    have hp := List.pairwise_cons.1 h.1
    rw [Memory.write]
    split
    · next hab =>
      split
      · next hv =>
        rw [hv]
        refine Memory.read_below fun d hd => ?_
        rcases List.mem_cons.1 hd with rfl | hd
        · exact hab
        · exact Nat.lt_trans hab (hp.1 d hd)
      · simp [Memory.read]
    · split
      · next hab =>
        split
        · next hv =>
          rw [hv, hab]
          exact Memory.read_below hp.1
        · simp [Memory.read]
      · next hab =>
        rw [Memory.read, if_neg (fun e => hab e.symm)]
        exact ih (Memory.wf_tail h)

/-- A write leaves every other address alone. -/
theorem Memory.read_write_other {m : Memory} (h : m.wf) {a b : Nat} (hab : b ≠ a) (v : Byte) :
    (m.write a v).read b = m.read b := by
  induction m with
  | nil =>
    rw [Memory.write]
    split
    · rfl
    · simp [Memory.read, Ne.symm hab]
  | cons c m ih =>
    obtain ⟨d, w⟩ := c
    rw [Memory.write]
    split
    · split
      · rfl
      · rw [Memory.read, if_neg (Ne.symm hab)]
    · split
      · next hd =>
        subst hd
        split
        · rw [Memory.read, if_neg (Ne.symm hab)]
        · rw [Memory.read, if_neg (Ne.symm hab), Memory.read, if_neg (Ne.symm hab)]
      · rw [Memory.read, Memory.read, ih (Memory.wf_tail h)]

/-- Every listed cell of a written memory was listed or is the written one. -/
theorem Memory.mem_write {m : Memory} {a : Nat} {v : Byte} {c : Host.Cell} (h : c ∈ m.write a v) :
    c ∈ m ∨ (c = (a, v) ∧ v ≠ 0) := by
  induction m with
  | nil =>
    rw [Memory.write] at h
    split at h
    · simp at h
    · next hv => exact .inr ⟨by simpa using h, hv⟩
  | cons d m ih =>
    obtain ⟨b, w⟩ := d
    rw [Memory.write] at h
    split at h
    · split at h
      · exact .inl h
      · next hv =>
        rcases List.mem_cons.1 h with rfl | h
        · exact .inr ⟨rfl, hv⟩
        · exact .inl h
    · split at h
      · split at h
        · exact .inl (List.mem_cons_of_mem _ h)
        · next hv =>
          rcases List.mem_cons.1 h with rfl | h
          · exact .inr ⟨rfl, hv⟩
          · exact .inl (List.mem_cons_of_mem _ h)
      · rcases List.mem_cons.1 h with rfl | h
        · exact .inl (by simp)
        · rcases ih h with h | h
          · exact .inl (List.mem_cons_of_mem _ h)
          · exact .inr h

/-- A write keeps the canonical form. -/
theorem Memory.wf_write {m : Memory} (h : m.wf) (a : Nat) (v : Byte) : (m.write a v).wf := by
  induction m with
  | nil =>
    rw [Memory.write]
    split
    · exact Memory.wf_nil
    · next hv => exact ⟨by simp, by simpa using hv⟩
  | cons c m ih =>
    obtain ⟨b, w⟩ := c
    have hp := List.pairwise_cons.1 h.1
    rw [Memory.write]
    split
    · next hab =>
      split
      · exact h
      · next hv =>
        refine ⟨List.pairwise_cons.2 ⟨fun d hd => ?_, h.1⟩, fun d hd => ?_⟩
        · rcases List.mem_cons.1 hd with rfl | hd
          · exact hab
          · exact Nat.lt_trans hab (hp.1 d hd)
        · rcases List.mem_cons.1 hd with rfl | hd
          · exact hv
          · exact h.2 d hd
    · next hlt =>
      split
      · next hab =>
        split
        · exact Memory.wf_tail h
        · next hv =>
          subst hab
          refine ⟨List.pairwise_cons.2 ⟨hp.1, hp.2⟩, fun d hd => ?_⟩
          rcases List.mem_cons.1 hd with rfl | hd
          · exact hv
          · exact h.2 d (List.mem_cons_of_mem _ hd)
      · next hne =>
        have ih' := ih (Memory.wf_tail h)
        refine ⟨List.pairwise_cons.2 ⟨fun d hd => ?_, ih'.1⟩, fun d hd => ?_⟩
        · rcases Memory.mem_write hd with hd | ⟨rfl, -⟩
          · exact hp.1 d hd
          · exact Nat.lt_of_le_of_ne (Nat.le_of_not_lt hlt) (Ne.symm hne)
        · rcases List.mem_cons.1 hd with rfl | hd
          · exact h.2 _ (by simp)
          · exact ih'.2 d hd

/-- A row of writes keeps the canonical form. -/
theorem Memory.wf_writeBytes {m : Memory} (h : m.wf) (a : Nat) (vs : List Byte) : (m.writeBytes a vs).wf := by
  induction vs generalizing m a with
  | nil => exact h
  | cons v vs ih => exact ih (Memory.wf_write h a v) (a + 1)

/-- A row of writes leaves every address outside the row alone. -/
theorem Memory.read_writeBytes_other {m : Memory} (h : m.wf) {a b : Nat} (vs : List Byte)
    (hb : b < a ∨ a + vs.length ≤ b) : (m.writeBytes a vs).read b = m.read b := by
  induction vs generalizing m a with
  | nil => rfl
  | cons v vs ih =>
    rw [Memory.writeBytes, ih (Memory.wf_write h a v) (by simp at hb; omega)]
    exact Memory.read_write_other h (by simp at hb; omega) v

/-- A row of writes reads back byte for byte. -/
theorem Memory.read_writeBytes_same {m : Memory} (h : m.wf) (a : Nat) (vs : List Byte) {k : Nat} (hk : k < vs.length) :
    (m.writeBytes a vs).read (a + k) = vs[k] := by
  induction vs generalizing m a k with
  | nil => simp at hk
  | cons v vs ih =>
    rw [Memory.writeBytes]
    cases k with
    | zero =>
      rw [Memory.read_writeBytes_other (Memory.wf_write h a v) vs (by omega)]
      exact Memory.read_write_same h a v
    | succ k =>
      have := ih (Memory.wf_write h a v) (a + 1) (k := k) (by simpa using hk)
      simpa [Nat.add_assoc, Nat.add_comm 1 k] using this

/-- An entry holds PKT_MAX bytes. -/
@[simp] theorem length_entryBytes (p : List Byte) : (entryBytes p).length = pktMax := by simp [entryBytes]

/-- Storing a packet keeps the canonical form of the buffer. -/
theorem Ctx.store_wf {c : Ctx} (h : c.mpMem.wf) (p : List Byte) (f : Fields) : (c.store p f).mpMem.wf :=
  Memory.wf_writeBytes h _ _

/-- Storing a packet writes the bytes of the entry at the fill count and no other. -/
theorem Ctx.store_read_other {c : Ctx} (h : c.mpMem.wf) (p : List Byte) (f : Fields) {a : Nat}
    (ha : a < mpAddr c.mpFill 0 ∨ mpAddr c.mpFill 0 + pktMax ≤ a) : (c.store p f).mpMem.read a = c.mpMem.read a :=
  Memory.read_writeBytes_other h _ (by simpa using ha)

/-- Storing a packet: byte k of the entry at the fill count is byte k of the packet. -/
theorem Ctx.store_read_same {c : Ctx} (h : c.mpMem.wf) (p : List Byte) (f : Fields) {k : Nat} (hk : k < pktMax) :
    (c.store p f).mpMem.read (mpAddr c.mpFill k) = byteAt p k := by
  have := Memory.read_writeBytes_same h (mpAddr c.mpFill 0) (entryBytes p) (k := k) (by simpa using hk)
  simpa [Ctx.store, mpAddr, entryBytes] using this

/-- The memory right after reset is in canonical form. -/
theorem reset_memory_wf : State.reset.ctx.mpMem.wf := Memory.wf_nil

end Sys2Proof.Machine
end

