-- ==== Sys2Proof/Laws/Ops.lean ====
section
/-!
SUPPORT. What each shared operation of the machine can do, said once: running a packet operation, the five ways PROCESS ends, the
merges, and the two halves of a step.
-/

namespace Sys2Proof.Machine

/-! ### Packet operations -/

/-- A packet operation whose packet holds the bytes its layout reads answers a next state, that of PROCESS. -/
theorem runDecoder_next {fam : Family} {cls : PacketClass} {dec : State → Decoded} {s : State}
    (h : s.cfg.layouts.reach fam ≤ s.opnd.pkt.length) :
    runDecoder fam cls dec s = .next (process fam (dec (beginPacket cls s)) (beginPacket cls s)) := by
  rw [runDecoder, if_neg (by omega)]

/-- A packet operation that answers a next state answers that of PROCESS. -/
theorem runDecoder_eq_next {fam : Family} {cls : PacketClass} {dec : State → Decoded} {s t : State}
    (h : runDecoder fam cls dec s = .next t) : t = process fam (dec (beginPacket cls s)) (beginPacket cls s) := by
  unfold runDecoder at h
  split at h
  · cases h
  · cases h; rfl

/-- PROCESS writes nothing of the device (the part of the state no packet operation writes). -/
theorem process_keepsDevice (fam : Family) (cls : PacketClass) (r : Decoded) (s : State)
    (h : (process fam r (beginPacket cls s)).ctx.fwVersion = s.ctx.fwVersion) :
    KeepsDevice s (process fam r (beginPacket cls s)) := by
  constructor <;> simp [h]

/-! ### The report -/

/-- The touches of a report are those R120 lists. -/
theorem touchesOf_eq (pool : Pool) : touchesOf pool = reportedTouches pool := rfl

/-- A button mask has the bits R120 gives it. -/
theorem buttonMask_eq (l r m : Bool) : buttonMask l r m = buttonBits l r m := by cases l <;> cases r <;> cases m <;> rfl

/-! ### The ways PROCESS ends -/

/-- FRAME shows its fields, gated and clamped. -/
theorem frame_shows (fam : Family) (f : Fields) {s : State} (h : s.status = Status.silent) :
    ShowsFrame fam (frameFields s f) (overFull f) s (frame fam f s) := by
  have hcap : (frame fam f s).status =
      if overFull f || (trackPool s.cfg (contactsOf (frameFields s f)) (anyButton (frameFields s f)) s.vf).2 then
        ⟨.error, 5, true, true⟩ else ⟨.frame, 0, false, true⟩ := by
    simp only [frame, raiseIfFull, emitReport, track, h, Status.silent]
    cases overFull f <;>
      cases (trackPool s.cfg (contactsOf (frameFields s f)) (anyButton (frameFields s f)) s.vf).2 <;> rfl
  have hrep : (frame fam f s).report =
      buildReport fam .touchpad
        { s with
          fields := frameFields s f
          vf := (trackPool s.cfg (contactsOf (frameFields s f)) (anyButton (frameFields s f)) s.vf).1 } := by
    simp only [frame, raiseIfFull_report, emitReport_report]
    rfl
  refine ⟨by simp, by simp [anyButton], hcap, ?_, ?_, ?_, ?_, ?_, ?_⟩
  · simp [hrep, buildReport, touchesOf_eq]
  · simp [hrep, buildReport]
  · simp [hrep, buildReport, carriesTp, buttonMask_eq]
  · simp [hrep, buildReport, carriesTs, Descriptor.has, buttonMask_eq]
  · simp [hrep, buildReport]
  · simp [hrep, buildReport]

/-- What a frame shows depends on the state before only through the configuration, the descriptor, the pool and the report. -/
theorem ShowsFrame.of_same {fam : Family} {g : Fields} {full : Bool} {s s' t : State} (h : ShowsFrame fam g full s t)
    (hc : s'.cfg = s.cfg) (hd : s'.desc = s.desc) (hv : s'.vf = s.vf) (hr : s'.report = s.report) :
    ShowsFrame fam g full s' t := by
  obtain ⟨h1, h2, h3, h4, h5, h6, h7, h8, h9⟩ := h
  constructor <;> simp_all

/-- FRAME on a state that differs from s in nothing a frame looks at. -/
theorem frame_shows_from (fam : Family) (cls : PacketClass) (f : Fields) {s x : State} (hs : x.status = Status.silent)
    (hf : x.fields.cls = cls.code) (hc : x.cfg = s.cfg) (hd : x.desc = s.desc) (hv : x.vf = s.vf)
    (hr : x.report = s.report) :
    ShowsFrame fam { clampFields (gateTs s.desc f) with cls := cls.code } (overFull f) s (frame fam f x) := by
  have h := frame_shows fam f hs
  rw [frameFields, hf, hd] at h
  exact h.of_same hc.symm hd.symm hv.symm hr.symm

/-- PROCESS(POS(f)) of a packet that opens no group: no group is open, and the frame is shown. -/
theorem processPos_frame (fam : Family) (f : Fields) (w : Option Bool) {s : State} (hf : (f.firstMp && hasMp fam) = false) :
    ∃ x : Ctx, processPos fam f w s = frame fam f { s with ctx := x } ∧ x = { s.ctx with prevFin := w.getD s.ctx.prevFin } := by
  cases w <;> simp [processPos, hf]

/-- PROCESS(POS(f)) of an opener: the packet and its gated fields become entry 0 of an open group. -/
theorem processPos_opener (fam : Family) (f : Fields) (s : State) (hf : (f.firstMp && hasMp fam) = true) :
    processPos fam f none s =
      { s with ctx := { ({ s.ctx with mpFill := 0 } : Ctx).store s.opnd.pkt (gateTs s.desc f) with mpOpen := true } } := by
  simp [processPos, hf]

/-- PROCESS(STICK(f)) shows the stick fields. -/
theorem processStick_shows (fam : Family) (f : Fields) {s : State} (h : s.status = Status.silent) :
    ShowsStick { f with cls := s.fields.cls } s (processStick fam f s) := by
  constructor <;>
    simp [processStick, emitReport, buildReport, carriesTp, carriesTs, h, Status.silent, touchesOf_eq, buttonMask_eq]

/-- With no contacts no capacity is exceeded. -/
theorem trackPool_nil_full (c : Cfg) (b : Bool) (pool : Pool) : (trackPool c [] b pool).2 = false := rfl

/-- PROCESS(IDLE) of fields that are zero but the class. -/
theorem processIdle_shows (fam : Family) {s : State} {cls : Nibble} (h : s.status = Status.silent)
    (hf : s.fields = { Fields.zero with cls := cls }) :
    ShowsIdle fam cls (if s.cfg.idleReport = .emit then .frame else .silent) 0 s (processIdle fam s) := by
  have hb : anyButton { Fields.zero with cls := cls } = false := rfl
  cases hi : s.cfg.idleReport <;>
    (constructor <;>
      simp [processIdle, hi, hb, emitReport, buildReport, carriesTp, carriesTs, track, h, hf, Status.silent,
        trackPool_nil_full, touchesOf_eq, buttonMask, Descriptor.has])

/-- A continuation with a group open and room is stored. -/
theorem processCont_stored {fam : Family} {f : Fields} {term : Bool} {m : Merge} {s : State} (ho : s.ctx.mpOpen = true)
    (hr : s.ctx.mpFill < mpCap) : processCont fam f term m s = processStored fam f term m s := by
  simp [processCont, ho, hr]

/-- A continuation without an open group, or with a full buffer, is out of sequence. -/
theorem processCont_out {fam : Family} {f : Fields} {term : Bool} {m : Merge} {s : State}
    (h : s.ctx.mpOpen = false ∨ mpCap ≤ s.ctx.mpFill) : processCont fam f term m s = raiseOutOfSequence s := by
  have : (s.ctx.mpOpen && decide (s.ctx.mpFill < mpCap)) = false := by
    rcases h with h | h
    · simp [h]
    · simp only [Bool.and_eq_false_iff, decide_eq_false_iff_not]; right; omega
  rw [processCont, this]; rfl

/-- Abandoning a group (40_dispatch.md R100) on the packet's fresh state. -/
theorem abandon_closes (s t : State) (h : t.ctx.mpOpen = (abandon s).ctx.mpOpen ∧ t.ctx.mpFill = (abandon s).ctx.mpFill) :
    AbandonsGroup s t := by
  refine ⟨?_, ?_⟩
  · rw [h.1]; exact abandon_mpOpen s
  · rw [h.2, abandon]; split <;> simp_all [Ctx.close]

/-- Abandoning a group leaves the pairing state, the buffer and prev_fin. -/
theorem abandon_ctx_kept (s : State) :
    (abandon s).ctx = { s.ctx with mpOpen := (abandon s).ctx.mpOpen, mpFill := (abandon s).ctx.mpFill } := by
  unfold abandon; split <;> rfl

/-! ### BITMAP and the merges -/

/-- BITMAP writes the pairing state of the context and nothing else of it. -/
theorem bitmapOf_ctx (c : Cfg) (k : Scale) (x : Ctx) (xm ym n : Nat) :
    (bitmapOf c k x xm ym n).2 =
      { x with
        bmPrevValid := (bitmapOf c k x xm ym n).2.bmPrevValid, bmPrev0 := (bitmapOf c k x xm ym n).2.bmPrev0
        bmPrev1 := (bitmapOf c k x xm ym n).2.bmPrev1, bmOrient := (bitmapOf c k x xm ym n).2.bmOrient } := by
  unfold bitmapOf
  split
  · split
    · rfl
    · split
      · rfl
      · unfold bitmapPair
        dsimp only
        split <;> rfl
  · rfl

/-- BITMAP returns at most two positions. -/
theorem bitmapOf_length (c : Cfg) (k : Scale) (x : Ctx) (xm ym n : Nat) : (bitmapOf c k x xm ym n).1.length ≤ 2 := by
  unfold bitmapOf
  split
  · split
    · simp
    · split
      · simp
      · unfold bitmapPair
        dsimp only
        split <;> simp
  · simp

/-- BITMAP reads only the pairing state of the context. -/
theorem bitmapOf_same (c : Cfg) (k : Scale) {x y : Ctx} (xm ym n : Nat) (hv : y.bmPrevValid = x.bmPrevValid)
    (h0 : y.bmPrev0 = x.bmPrev0) (h1 : y.bmPrev1 = x.bmPrev1) (ho : y.bmOrient = x.bmOrient) :
    (bitmapOf c k y xm ym n).1 = (bitmapOf c k x xm ym n).1 ∧
      (bitmapOf c k y xm ym n).2.bmPrevValid = (bitmapOf c k x xm ym n).2.bmPrevValid ∧
      (bitmapOf c k y xm ym n).2.bmPrev0 = (bitmapOf c k x xm ym n).2.bmPrev0 ∧
      (bitmapOf c k y xm ym n).2.bmPrev1 = (bitmapOf c k x xm ym n).2.bmPrev1 ∧
      (bitmapOf c k y xm ym n).2.bmOrient = (bitmapOf c k x xm ym n).2.bmOrient := by
  have hori : ∀ a b d e, orientOf c.metric y a b d e = orientOf c.metric x a b d e := by
    intro a b d e
    cases x; cases y
    simp only at hv h0 h1 ho
    subst hv h0 h1 ho
    rfl
  unfold bitmapOf
  split
  · split
    · exact ⟨rfl, rfl, h0, h1, ho⟩
    · split
      · exact ⟨rfl, rfl, h0, h1, ho⟩
      · unfold bitmapPair
        dsimp only
        rw [hori]
        split <;> exact ⟨rfl, rfl, rfl, rfl, rfl⟩
  · exact ⟨rfl, rfl, h0, h1, ho⟩

/-- The positions BITMAP returns leave everything of the fields but mt and npos. -/
theorem putPoints_eq (f : Fields) (ps : List Pos) :
    putPoints f ps = { f with mt := (putPoints f ps).mt, npos := (putPoints f ps).npos } := by
  match ps with
  | [] => rfl
  | [_] => rfl
  | _ :: _ :: _ => rfl

/-- At most two positions are written. -/
theorem putPoints_npos (f : Fields) (ps : List Pos) : (putPoints f ps).npos ≤ 2 := by
  match ps with
  | [] => simp [putPoints]
  | [_] => simp [putPoints]
  | _ :: _ :: _ => simp [putPoints]

/-- f.mt[0..n-1] <- ps, f.npos <- n (R150): what each of the five positions is afterwards. -/
theorem putPoints_mt (f : Fields) (ps : List Pos) (h : ps.length ≤ 2) :
    (putPoints f ps).mt = Vector.ofFn (fun j : Fin 5 => ps.getD j f.mt[j]) ∧ (putPoints f ps).npos = ps.length := by
  match ps, h with
  | [], _ => exact ⟨by apply Vector.ext; intro i hi; simp [putPoints], rfl⟩
  | [_], _ => exact ⟨by apply Vector.ext; intro i hi; simp [putPoints, Vector.getElem_set]; rcases i with _ | i <;> simp, rfl⟩
  | [_, _], _ =>
    exact ⟨by apply Vector.ext; intro i hi; simp [putPoints, Vector.getElem_set]; rcases i with _ | _ | i <;> simp, rfl⟩

/-- A merge leaves the context but for the pairing state. -/
theorem mergeGroup_ctx (m : Merge) (s : State) :
    (mergeGroup m s).2 =
      { s.ctx with
        bmPrevValid := (mergeGroup m s).2.bmPrevValid, bmPrev0 := (mergeGroup m s).2.bmPrev0
        bmPrev1 := (mergeGroup m s).2.bmPrev1, bmOrient := (mergeGroup m s).2.bmOrient } := by
  cases m
  · exact bitmapOf_ctx _ _ _ _ _ _
  · exact bitmapOf_ctx _ _ _ _ _ _
  · rfl

/-- The fields of a merged frame have no multi-packet flag (40_dispatch.md R108). -/
theorem mergeGroup_flags (m : Merge) (s : State) : (mergeGroup m s).1.firstMp = false ∧ (mergeGroup m s).1.isMp = false := by
  cases m
  · rw [mergeGroup, mergeBitmap]; rw [putPoints_eq]; exact ⟨rfl, rfl⟩
  · rw [mergeGroup, mergeV4]; rw [putPoints_eq]; exact ⟨rfl, rfl⟩
  · exact ⟨rfl, rfl⟩

/-! ### The firmware version and the descriptor -/

/-- No result of a decode changes the firmware version. -/
theorem process_fwVersion (fam : Family) (r : Decoded) (s : State) : (process fam r s).ctx.fwVersion = s.ctx.fwVersion := by
  have hab : (abandon s).ctx.fwVersion = s.ctx.fwVersion := by unfold abandon; split <;> rfl
  cases r with
  | pos f w =>
    rw [process, ← hab]
    unfold processPos
    cases w <;> (dsimp only; split <;> simp [Ctx.store])
  | cont f term m =>
    rw [process]
    unfold processCont
    split
    · unfold processStored
      dsimp only
      split
      · rw [frame_ctx, Ctx.close, mergeGroup_ctx]; rfl
      · rfl
    · rfl
  | idle => rw [process, processIdle_ctx, hab]
  | drop => exact hab
  | stick f => rw [process, processStick_ctx, hab]
  | unknown => rw [process, processUnknown_ctx, ← hab]; rfl

/-! ### A packet operation from its start -/

/-- A packet that only abandons a group, apart from prev_fin: the pairing state and the buffer stand. -/
theorem context_after_abandon {cls : PacketClass} {v : Bool} {s t : State}
    (h : t.ctx = { (abandon (beginPacket cls s)).ctx with prevFin := v }) :
    KeepsPairing s t ∧ KeepsBuffer s t ∧ AbandonsGroup s t ∧ t.ctx.prevFin = v := by
  obtain ⟨ho, hf⟩ := abandon_closes (beginPacket cls s) t ⟨by rw [h], by rw [h]⟩
  rw [abandon_ctx_kept] at h
  refine ⟨⟨?_, ?_, ?_, ?_⟩, ⟨fun a => ?_, ?_⟩, ⟨ho, hf⟩, ?_⟩ <;> rw [h] <;> rfl

/-- A packet that gives a position and opens no group: what it leaves. -/
theorem process_pos_frame (fam : Family) (cls : PacketClass) (f : Fields) (w : Option Bool) (s : State)
    (hf : (f.firstMp && hasMp fam) = false) :
    KeepsDevice s (process fam (.pos f w) (beginPacket cls s)) ∧ KeepsPairing s (process fam (.pos f w) (beginPacket cls s)) ∧
      KeepsBuffer s (process fam (.pos f w) (beginPacket cls s)) ∧
      AbandonsGroup s (process fam (.pos f w) (beginPacket cls s)) ∧
      (process fam (.pos f w) (beginPacket cls s)).ctx.prevFin = w.getD s.ctx.prevFin ∧
      ShowsFrame fam { clampFields (gateTs s.desc f) with cls := cls.code } (overFull f) s
        (process fam (.pos f w) (beginPacket cls s)) := by
  obtain ⟨x, hx, rfl⟩ := processPos_frame fam f w (s := abandon (beginPacket cls s)) hf
  have hp : process fam (.pos f w) (beginPacket cls s) = _ := hx
  have hc : (process fam (.pos f w) (beginPacket cls s)).ctx =
      { (abandon (beginPacket cls s)).ctx with prevFin := w.getD s.ctx.prevFin } := by
    have hk : (abandon (beginPacket cls s)).ctx.prevFin = s.ctx.prevFin := by rw [abandon_ctx_kept]; rfl
    rw [hp, frame_ctx]
    simp only [hk]
  obtain ⟨h1, h2, h3, h4⟩ := context_after_abandon hc
  refine ⟨process_keepsDevice _ _ _ _ (by rw [process_fwVersion]; rfl), h1, h2, h3, h4, ?_⟩
  rw [hp]
  exact frame_shows_from fam cls f (by simp) (by simp) (by simp) (by simp) (by simp) (by simp)

/-! ### The constraints of a configuration -/

/-- The check of REGISTRY: no signature twice, no reserved family code (R321). -/
theorem registryValid_iff (es : List RegEntry) :
    registryValid es = true ↔
      (es.Pairwise fun a b => a.sig ≠ b.sig) ∧ ∀ e ∈ es, 1 ≤ e.tag.toNat ∧ e.tag.toNat ≤ 11 := by
  have code : ∀ t : Nibble, (Family.ofCode t).isSome = true ↔ 1 ≤ t.toNat ∧ t.toNat ≤ 11 := by decide
  induction es with
  | nil => simp [registryValid]
  | cons e es ih =>
    have comm : (∀ x ∈ es, ¬x.sig = e.sig) ↔ ∀ x ∈ es, ¬e.sig = x.sig := by simp only [eq_comm]
    simp only [registryValid, Bool.and_eq_true, ih, code, List.pairwise_cons, List.all_eq_true, bne_iff_ne, ne_eq,
      List.mem_cons, forall_eq_or_imp, comm]
    tauto

/-- The legal classes of a family are those R79 lists. -/
theorem legalClass_iff (f : Family) (c : Nibble) : legalClass f c = true ↔ c.toNat ∈ classCodes f := by
  cases f <;> revert c <;> decide

/-! ### The step -/

/-- Where no OPSEL is formed the step ends there. -/
theorem step_ended {s t : State} (h : fetch s = .ended t) : step s = .next t := by rw [step, h]

/-- Where an OPSEL is formed the step is its operation, retired. -/
theorem step_run {s t : State} {w : Opsel} {i : Instr} (h : fetch s = .run w t) (hd : decodeOpsel w = .ok i) :
    step s = retire (exec i t) := by rw [step, h]; simp only [hd]

/-- A reserved OPSEL is refused. -/
theorem step_reserved {s t : State} {w : Opsel} {r : Reserved} (h : fetch s = .run w t) (hd : decodeOpsel w = .error r) :
    step s = .next { refuse t with opnd := Operands.none } := by rw [step, h]; simp only [hd]

/-- What a step that answers a next state has done. -/
theorem step_cases {s t : State} (h : step s = .next t) :
    fetch s = .ended t ∨
      ∃ w u, fetch s = .run w u ∧
        ((∃ i v, decodeOpsel w = .ok i ∧ exec i u = .next v ∧ t = { v with opnd := Operands.none }) ∨
          (∃ r, decodeOpsel w = .error r ∧ t = { refuse u with opnd := Operands.none })) := by
  unfold step at h
  split at h
  · next u hu => cases h; exact .inl hu
  · next w u hu =>
    refine .inr ⟨w, u, hu, ?_⟩
    split at h
    · next i hi =>
      refine .inl ⟨i, ?_⟩
      cases hx : exec i u with
      | next v => rw [hx] at h; cases h; exact ⟨v, hi, rfl, rfl⟩
      | fault f => rw [hx] at h; cases h
      | refused r => rw [hx] at h; cases h
    · next r hr => cases h; exact .inr ⟨r, hr, rfl⟩

/-- The class nibble of a packet operation's word reads back. -/
theorem opselB_packetOpsel (f : Family) (c : Nibble) : opselB (packetOpsel f c) = c := by
  cases f <;> revert c <;> decide

/-- Every packet operation's word decodes to the table's operation of its pair. -/
theorem decode_packetOpsel {f : Family} {k : PacketClass} {i : Instr} (h : packetInstr f k = some i) :
    decodeOpsel (packetOpsel f k.code) = .ok i := by
  cases f <;> cases k <;> simp [packetInstr] at h <;> subst h <;> decide

end Sys2Proof.Machine
end

