-- ==== Sys2Proof/Laws/Tracker.lean ====
section
/-!
SUPPORT. What each step of TRACK can do (44_tracker.md R240): the matching loop, the ageing of unmatched fingers and the
allocation loop, each said once, and the moving-average and finger invariants they keep.
-/

namespace Sys2Proof.Machine

/-! ### The pool -/

/-- Reading a pool after one finger is written. -/
theorem pool_get_set (pool : Pool) (i j : Fin 5) (v : VFinger) : (pool.set i v)[j] = if j = i then v else pool[j] := by
  by_cases h : j = i
  · subst h; simp
  · rw [if_neg h]
    simp only [Fin.getElem_fin, Vector.getElem_set]
    rw [if_neg (fun e => h (Fin.ext e.symm))]

/-- The Touching tags are those of Touching fingers. -/
theorem mem_touchingTags {pool : Pool} {i : Fin 5} : i ∈ touchingTags pool ↔ pool[i].state = .touching := by
  have : i ∈ allTags := by revert i; decide
  simp [touchingTags, this]

/-- No tag stands twice among the Touching ones. -/
theorem nodup_touchingTags (pool : Pool) : (touchingTags pool).Nodup := List.Nodup.filter _ (by decide)

/-! ### Matching -/

/-- The least candidate is one of the candidates. -/
theorem leastCand_mem {cs : List Cand} {a : Cand} (h : leastCand cs = some a) : a ∈ cs := by
  induction cs generalizing a with
  | nil => cases h
  | cons c cs ih =>
    rw [leastCand] at h
    split at h
    · cases h; simp
    · next b hb =>
      split at h
      · cases h; exact List.mem_cons_of_mem _ (ih hb)
      · cases h; simp

/-- There is a least candidate exactly if there is a candidate. -/
theorem leastCand_none {cs : List Cand} (h : leastCand cs = none) : cs = [] := by
  cases cs with
  | nil => rfl
  | cons c cs =>
    rw [leastCand] at h
    split at h
    · cases h
    · split at h <;> cases h

/-- A candidate pairs an unmatched finger with an unmatched contact. -/
theorem mem_candidates {c : Cfg} {pool : Pool} {uv : List (Fin 5)} {uc : List Contact} {a : Cand}
    (h : a ∈ candidates c pool uv uc) : a.tag ∈ uv ∧ a.contact ∈ uc ∧ a.d = fingerDist c.metric pool[a.tag] a.contact := by
  simp only [candidates, List.mem_flatMap, List.mem_filter, List.mem_map] at h
  obtain ⟨i, hi, ⟨k, hk, rfl⟩, -⟩ := h
  exact ⟨hi, hk, rfl⟩

/-- With MATCH_MAX_DIST unbounded there is a candidate as long as there are a finger and a contact (R244). -/
theorem candidates_unbounded {c : Cfg} {pool : Pool} {uv : List (Fin 5)} {uc : List Contact} (hc : c.matchMaxDist = none)
    (h : candidates c pool uv uc = []) : uv = [] ∨ uc = [] := by
  cases uv with
  | nil => exact .inl rfl
  | cons i uv =>
    cases uc with
    | nil => exact .inr rfl
    | cons k uc => simp [candidates, within, hc] at h

/-- What the matching loop leaves: a finger that stays unmatched is unchanged, one that is matched is bound to a contact, every
contact stays unmatched or is bound, and as many fingers as contacts are matched. -/
structure MatchedFrom (c : Cfg) (b : Bool) (m r : Matching) : Prop where
  still : ∀ i ∈ r.uv, i ∈ m.uv
  unmatched : ∀ i ∈ r.uv, r.pool[i] = m.pool[i]
  outside : ∀ i, i ∉ m.uv → r.pool[i] = m.pool[i]
  matched : ∀ i ∈ m.uv, i ∉ r.uv → ∃ k ∈ m.uc, r.pool[i] = bindFinger c m.pool[i] k b
  contacts : ∀ k ∈ r.uc, k ∈ m.uc
  served : ∀ k ∈ m.uc, k ∈ r.uc ∨ ∃ i ∈ m.uv, i ∉ r.uv ∧ r.pool[i] = bindFinger c m.pool[i] k b
  count : r.uv.length + m.uc.length = m.uv.length + r.uc.length
  nodup : r.uv.Nodup

/-- The matching loop, whatever its bound on rounds. -/
theorem matchLoop_matched (c : Cfg) (b : Bool) (n : Nat) (m : Matching) (hm : m.uv.Nodup) :
    MatchedFrom c b m (matchLoop c b n m) := by
  induction n generalizing m with
  | zero => exact ⟨fun _ h => h, fun _ _ => rfl, fun _ _ => rfl, fun i h h' => absurd h h', fun _ h => h, fun k h => .inl h,
      rfl, hm⟩
  | succ n ih =>
    rw [matchLoop]
    split
    · exact ⟨fun _ h => h, fun _ _ => rfl, fun _ _ => rfl, fun i h h' => absurd h h', fun _ h => h, fun k h => .inl h,
        rfl, hm⟩
    · next a ha =>
      obtain ⟨ht, hk, -⟩ := mem_candidates (leastCand_mem ha)
      have h := ih ⟨m.pool.set a.tag (bindFinger c m.pool[a.tag] a.contact b), m.uv.erase a.tag, m.uc.erase a.contact⟩
        (hm.erase _)
      generalize matchLoop c b n ⟨m.pool.set a.tag (bindFinger c m.pool[a.tag] a.contact b), m.uv.erase a.tag,
        m.uc.erase a.contact⟩ = r at h
      have hne : ∀ i ∈ m.uv.erase a.tag, i ≠ a.tag := fun i hi => ((hm.mem_erase_iff).1 hi).1
      have hget : ∀ i, i ≠ a.tag → (m.pool.set a.tag (bindFinger c m.pool[a.tag] a.contact b))[i] = m.pool[i] :=
        fun i hi => by rw [pool_get_set, if_neg hi]
      have htag : a.tag ∉ m.uv.erase a.tag := fun hi => hne _ hi rfl
      have htr : a.tag ∉ r.uv := fun hi => htag (h.still _ hi)
      have hbound : r.pool[a.tag] = bindFinger c m.pool[a.tag] a.contact b := by
        rw [h.outside _ htag, pool_get_set, if_pos rfl]
      refine ⟨fun i hi => List.mem_of_mem_erase (h.still i hi), fun i hi => ?_, fun i hi => ?_, fun i hi hr => ?_,
        fun k hk => List.mem_of_mem_erase (h.contacts k hk), fun k hkm => ?_, ?_, h.nodup⟩
      · rw [h.unmatched i hi]; exact hget i (hne i (h.still i hi))
      · rw [h.outside i (fun he => hi (List.mem_of_mem_erase he))]
        exact hget i (fun e => hi (e ▸ ht))
      · by_cases e : i = a.tag
        · subst e; exact ⟨a.contact, hk, hbound⟩
        · obtain ⟨k, hk', hb⟩ := h.matched i ((hm.mem_erase_iff).2 ⟨e, hi⟩) hr
          exact ⟨k, List.mem_of_mem_erase hk', by rw [hb, hget i e]⟩
      · by_cases e : k = a.contact
        · exact .inr ⟨a.tag, ht, htr, by rw [hbound, e]⟩
        · rcases h.served k ((List.mem_erase_of_ne e).2 hkm) with h' | ⟨i, hi, hir, hb⟩
          · exact .inl h'
          · exact .inr ⟨i, List.mem_of_mem_erase hi, hir, by rw [hb, hget i (hne i hi)]⟩
      · have h1 := h.count
        have h2 := List.length_erase_of_mem ht
        have h3 := List.length_erase_of_mem hk
        have h4 := List.length_pos_of_mem ht
        have h5 := List.length_pos_of_mem hk
        simp only at h1
        omega

/-- With MATCH_MAX_DIST unbounded the matching loop exhausts the fingers or the contacts (R244). -/
theorem matchLoop_exhausts {c : Cfg} (b : Bool) (hc : c.matchMaxDist = none) (n : Nat) (m : Matching)
    (hn : m.uc.length ≤ n) : (matchLoop c b n m).uv = [] ∨ (matchLoop c b n m).uc = [] := by
  induction n generalizing m with
  | zero =>
    right
    exact List.eq_nil_of_length_eq_zero (Nat.le_zero.1 hn)
  | succ n ih =>
    rw [matchLoop]
    split
    · next h => exact candidates_unbounded hc (leastCand_none h)
    · next a ha =>
      obtain ⟨-, hk, -⟩ := mem_candidates (leastCand_mem ha)
      refine ih _ ?_
      have := List.length_erase_of_mem hk
      have := List.length_pos_of_mem hk
      simp only
      omega

/-! ### Ageing -/

/-- Ageing changes exactly the unmatched fingers (R248). -/
theorem agePool_get (c : Cfg) (uv : List (Fin 5)) (hn : uv.Nodup) (pool : Pool) (i : Fin 5) :
    (agePool c uv pool)[i] = if i ∈ uv then ageFinger c pool[i] else pool[i] := by
  induction uv generalizing pool with
  | nil => simp [agePool]
  | cons j uv ih =>
    have hj := List.nodup_cons.1 hn
    rw [agePool, ih hj.2, pool_get_set]
    by_cases e : i = j
    · subst e; simp [hj.1]
    · simp [e]

/-- The fingers step 3 releases (R240). -/
theorem mem_releasedBy {c : Cfg} {pool : Pool} {uv : List (Fin 5)} {i : Fin 5} :
    i ∈ releasedBy c pool uv ↔ i ∈ uv ∧ c.hyst ≤ pool[i].miss := by
  simp only [releasedBy, List.mem_filter, decide_eq_true_eq]
  exact ⟨fun ⟨h1, h2⟩ => ⟨h1, by omega⟩, fun ⟨h1, h2⟩ => ⟨h1, by omega⟩⟩

/-- A finger that ages stays Touching for a grace frame, or is released and Free (R248, R249). -/
theorem ageFinger_state (c : Cfg) (v : VFinger) :
    (c.hyst ≤ v.miss ∧ ageFinger c v = releaseFinger c v) ∨ (v.miss < c.hyst ∧ ageFinger c v = { v with miss := v.miss + 1 }) := by
  unfold ageFinger
  split
  · exact .inl ⟨by omega, rfl⟩
  · exact .inr ⟨by omega, rfl⟩

/-! ### Allocation -/

/-- The tags a contact may be allocated to. -/
def freeTags (pool : Pool) (rel : List (Fin 5)) : List (Fin 5) :=
  allTags.filter fun i => decide (pool[i].state = .free) && !rel.contains i

/-- A free tag that was not released in this frame. -/
theorem mem_freeTags {pool : Pool} {rel : List (Fin 5)} {i : Fin 5} :
    i ∈ freeTags pool rel ↔ pool[i].state = .free ∧ i ∉ rel := by
  have : i ∈ allTags := by revert i; decide
  simp [freeTags, this]

/-- The lowest free tag is a free tag. -/
theorem lowestFree_mem {pool : Pool} {rel : List (Fin 5)} {i : Fin 5} (h : lowestFree pool rel = some i) :
    i ∈ freeTags pool rel := by
  have := List.find?_some h
  rw [mem_freeTags]
  simpa using this

/-- Every free tag is at least the lowest one (R246). -/
theorem lowestFree_le {pool : Pool} {rel : List (Fin 5)} {i : Fin 5} (h : lowestFree pool rel = some i) {j : Fin 5}
    (hj : j ∈ freeTags pool rel) : i ≤ j := by
  rw [mem_freeTags] at hj
  have key : ∀ q : Fin 5 → Bool, ∀ i j, (allTags.find? q) = some i → q j = true → i ≤ j := by
    intro q i j hq hj
    simp only [allTags, List.find?] at hq
    cases h0 : q 0 <;> cases h1 : q 1 <;> cases h2 : q 2 <;> cases h3 : q 3 <;> cases h4 : q 4 <;> simp [h0, h1, h2, h3, h4] at hq <;>
      subst hq <;> match j with | 0 | 1 | 2 | 3 | 4 => first | decide | simp_all
  exact key _ i j h (by simpa using hj)

/-- No lowest free tag: none is free. -/
theorem lowestFree_none {pool : Pool} {rel : List (Fin 5)} (h : lowestFree pool rel = none) : freeTags pool rel = [] := by
  rw [freeTags, List.filter_eq_nil_iff]
  intro i hi
  exact (List.find?_eq_none.1 h) i hi

/-- Inserting a contact adds it. -/
theorem insertBySlot_perm (k : Contact) (ks : List Contact) : (insertBySlot k ks).Perm (k :: ks) := by
  induction ks with
  | nil => exact .refl _
  | cons h t ih =>
    rw [insertBySlot]
    split
    · exact .refl _
    · exact (ih.cons h).trans (.swap k h t)

/-- Sorting contacts rearranges them. -/
theorem sortBySlot_perm (ks : List Contact) : (sortBySlot ks).Perm ks := by
  induction ks with
  | nil => exact .refl _
  | cons a ks ih => exact (insertBySlot_perm a _).trans (ih.cons a)

/-- Sorting contacts keeps them. -/
theorem mem_sortBySlot {k : Contact} {ks : List Contact} : k ∈ sortBySlot ks ↔ k ∈ ks := (sortBySlot_perm ks).mem_iff

/-- Sorting contacts keeps their number. -/
theorem length_sortBySlot (ks : List Contact) : (sortBySlot ks).length = ks.length := (sortBySlot_perm ks).length_eq

/-- Sorted contacts stand in ascending slot order (R246). -/
theorem sortBySlot_sorted (ks : List Contact) : (sortBySlot ks).Pairwise fun k h => k.slot ≤ h.slot := by
  have hins : ∀ (a : Contact) (l : List Contact), (l.Pairwise fun k h => k.slot ≤ h.slot) →
      (insertBySlot a l).Pairwise fun k h => k.slot ≤ h.slot := by
    intro a l hl
    induction l with
    | nil => simp [insertBySlot]
    | cons h t ih =>
      have hl' := List.pairwise_cons.1 hl
      rw [insertBySlot]
      split
      · next hle =>
        refine List.pairwise_cons.2 ⟨fun x hx => ?_, hl⟩
        rcases List.mem_cons.1 hx with rfl | hx
        · exact hle
        · exact le_trans hle (hl'.1 x hx)
      · next hle =>
        refine List.pairwise_cons.2 ⟨fun x hx => ?_, ih hl'.2⟩
        rcases List.mem_cons.1 ((insertBySlot_perm a t).mem_iff.1 hx) with rfl | hx
        · omega
        · exact hl'.1 x hx
  induction ks with
  | nil => exact .nil
  | cons a ks ih => exact hins a _ ih

/-- An allocated finger is Touching (R246). -/
theorem allocFinger_state (c : Cfg) (v : VFinger) (k : Contact) (b : Bool) : (allocFinger c v k b).state = .touching := rfl

/-- A bound finger keeps its state (R245). -/
theorem bindFinger_state (c : Cfg) (v : VFinger) (k : Contact) (b : Bool) : (bindFinger c v k b).state = v.state := rfl

/-- Allocating a finger takes its tag out of the free ones. -/
theorem freeTags_set {pool : Pool} {rel : List (Fin 5)} {j : Fin 5} {v : VFinger} (hv : v.state = .touching) :
    freeTags (pool.set j v) rel = (freeTags pool rel).erase j := by
  have hnd : (freeTags pool rel).Nodup := List.Nodup.filter _ (by decide)
  rw [hnd.erase_eq_filter j, freeTags, freeTags, List.filter_filter]
  apply List.filter_congr
  intro i _
  rw [pool_get_set]
  by_cases e : i = j
  · subst e; simp [hv]
  · simp [e]

/-- The lowest free tag is the first of the free ones. -/
theorem lowestFree_eq_head (pool : Pool) (rel : List (Fin 5)) : lowestFree pool rel = (freeTags pool rel).head? := by
  rw [lowestFree, freeTags, List.head?_filter]

/-- What the allocation loop leaves: every finger is as before, or was free and not just released, and takes a contact. -/
theorem allocLoop_get (c : Cfg) (b : Bool) (rel : List (Fin 5)) (ks : List Contact) (r : Pool × Bool) (i : Fin 5) :
    (allocLoop c b rel ks r).1[i] = r.1[i] ∨
      (r.1[i].state = .free ∧ i ∉ rel ∧ ∃ k ∈ ks, (allocLoop c b rel ks r).1[i] = allocFinger c r.1[i] k b) := by
  induction ks generalizing r with
  | nil => exact .inl rfl
  | cons k ks ih =>
    obtain ⟨pool, cap⟩ := r
    rw [allocLoop]
    split
    · rcases ih (pool, true) with h | ⟨h1, h2, k', hk, h3⟩
      · exact .inl h
      · exact .inr ⟨h1, h2, k', List.mem_cons_of_mem _ hk, h3⟩
    · next j hj =>
      have hf := mem_freeTags.1 (lowestFree_mem hj)
      rcases ih (pool.set j (allocFinger c pool[j] k b), cap) with h | ⟨h1, h2, k', hk, h3⟩
      · by_cases e : i = j
        · subst e
          refine .inr ⟨hf.1, hf.2, k, by simp, ?_⟩
          rw [h]; simp only [pool_get_set, if_pos]
        · refine .inl ?_
          rw [h]; simp only [pool_get_set, if_neg e]
      · by_cases e : i = j
        · subst e
          simp only [pool_get_set, if_pos, allocFinger_state] at h1
          cases h1
        · simp only [pool_get_set, if_neg e] at h1 h3
          exact .inr ⟨h1, h2, k', List.mem_cons_of_mem _ hk, h3⟩

/-- With as many free tags as contacts no capacity is exceeded and every contact is allocated (R247). -/
theorem allocLoop_enough (c : Cfg) (b : Bool) (rel : List (Fin 5)) (ks : List Contact) (r : Pool × Bool)
    (h : ks.length ≤ (freeTags r.1 rel).length) :
    (allocLoop c b rel ks r).2 = r.2 ∧ ∀ k ∈ ks, ∃ i : Fin 5, r.1[i].state = .free ∧
      (allocLoop c b rel ks r).1[i] = allocFinger c r.1[i] k b := by
  induction ks generalizing r with
  | nil => exact ⟨rfl, by simp⟩
  | cons k ks ih =>
    obtain ⟨pool, cap⟩ := r
    rw [allocLoop]
    split
    · next hn => rw [lowestFree_none hn] at h; simp at h
    · next j hj =>
      have hf := mem_freeTags.1 (lowestFree_mem hj)
      have := ih (pool.set j (allocFinger c pool[j] k b), cap) (by
        rw [freeTags_set (allocFinger_state ..), List.length_erase_of_mem (lowestFree_mem hj)]
        simp only [List.length_cons] at h
        omega)
      refine ⟨this.1, fun k' hk' => ?_⟩
      rcases List.mem_cons.1 hk' with rfl | hk'
      · refine ⟨j, hf.1, ?_⟩
        rcases allocLoop_get c b rel ks (pool.set j (allocFinger c pool[j] k' b), cap) j with h' | ⟨h1, -⟩
        · rw [h']; simp only [pool_get_set, if_pos]
        · simp only [pool_get_set, if_pos, allocFinger_state] at h1
          cases h1
      · obtain ⟨i, h1, h2⟩ := this.2 k' hk'
        by_cases e : i = j
        · subst e
          simp only [pool_get_set, if_pos, allocFinger_state] at h1
          cases h1
        · simp only [pool_get_set, if_neg e] at h1 h2
          exact ⟨i, h1, h2⟩

/-- Step 2 hands the free tags out in ascending order, and reports a contact that finds none (R246, R247). -/
theorem allocLoop_inOrder (c : Cfg) (b : Bool) (rel : List (Fin 5)) (ks : List Contact) (pool : Pool) (cap : Bool) :
    (∀ (n : Nat) (k : Contact) (i : Fin 5), ks[n]? = some k → (freeTags pool rel)[n]? = some i →
      (allocLoop c b rel ks (pool, cap)).1[i] = allocFinger c pool[i] k b) ∧
    (∀ (n : Nat) (i : Fin 5), ks.length ≤ n → (freeTags pool rel)[n]? = some i →
      (allocLoop c b rel ks (pool, cap)).1[i] = pool[i]) ∧
    (∀ i, i ∉ freeTags pool rel → (allocLoop c b rel ks (pool, cap)).1[i] = pool[i]) ∧
    ((allocLoop c b rel ks (pool, cap)).2 = true ↔ cap = true ∨ (freeTags pool rel).length < ks.length) := by
  induction ks generalizing pool cap with
  | nil => simp [allocLoop]
  | cons k ks ih =>
    rw [allocLoop, lowestFree_eq_head]
    cases hf : freeTags pool rel with
    | nil =>
      simp only [List.head?_nil]
      obtain ⟨-, -, h3, h4⟩ := ih pool true
      rw [hf] at h3 h4
      refine ⟨by simp, by simp, h3, ?_⟩
      simp at h4 ⊢
      exact h4
    | cons j fs =>
      simp only [List.head?_cons]
      have hnd : (freeTags pool rel).Nodup := List.Nodup.filter _ (by decide)
      have he : freeTags (pool.set j (allocFinger c pool[j] k b)) rel = fs := by
        rw [freeTags_set (allocFinger_state ..), hf, List.erase_cons_head]
      rw [hf] at hnd
      have hj := (List.nodup_cons.1 hnd).1
      obtain ⟨h1, h2, h3, h4⟩ := ih (pool.set j (allocFinger c pool[j] k b)) cap
      rw [he] at h1 h2 h3 h4
      have hne : ∀ i ∈ fs, i ≠ j := fun i hi e => hj (e ▸ hi)
      refine ⟨fun n k' i hk hi => ?_, fun n i hn hi => ?_, fun i hi => ?_, ?_⟩
      · cases n with
        | zero =>
          simp at hk hi; subst hk; subst hi
          rw [h3 _ hj, pool_get_set, if_pos rfl]
        | succ n =>
          simp at hk hi
          rw [h1 n k' i hk hi, pool_get_set, if_neg (hne i (List.mem_of_getElem? hi))]
      · cases n with
        | zero => simp at hn
        | succ n =>
          simp at hn hi
          rw [h2 n i hn hi, pool_get_set, if_neg (hne i (List.mem_of_getElem? hi))]
      · simp at hi
        rw [h3 i hi.2, pool_get_set, if_neg hi.1]
      · rw [h4]; simp

/-! ### Single fingers in the terms of the rules -/

/-- The metric of the model is that of R243. -/
theorem dist_eq (m : Metric) (ax ay bx byy : Int) : (dist m ax ay bx byy : Int) = metricOf m ax ay bx byy := by
  cases m
  · simp [dist, metricOf]
  · simp only [dist, metricOf]; omega

/-- SMOOTH is the FILTER operation of kind SMOOTH_KIND (R240). -/
theorem smooth_smooths (c : Cfg) (f : Filter) (x : Int) : Smooths c f x (smooth c f x) (smoothed c (smooth c f x)) where
  average := fun h => by
    simp only [smooth, smoothed, h, maPush, maMean]
    have hs : (if f.ma.count = c.maWindow then f.ma.sum + x - f.ma.buf.getD f.ma.index 0 else f.ma.sum + x) =
        f.ma.sum + x - (if f.ma.count = c.maWindow then f.ma.buf.getD f.ma.index 0 else 0) := by split <;> simp
    rw [hs]; exact ⟨rfl, rfl⟩
  decay := fun h => by simp [smooth, smoothed, h, decayPush, decayValue]

/-- FILTER_RESET is the RESET operation of kind SMOOTH_KIND (R240). -/
theorem filterReset_resets (c : Cfg) (f : Filter) : Resets c f (filterReset c f) where
  average := fun h => by simp [filterReset, h, MaState.clear]
  decay := fun h => by simp [filterReset, h, IirState.clear]

/-- BIND of a Touching finger (R245). -/
theorem bindFinger_binds (c : Cfg) {v : VFinger} (h : v.state = .touching) (k : Contact) (b : Bool) :
    Binds c k b v.fx v.fy (bindFinger c v k b) :=
  ⟨h, smooth_smooths c v.fx k.x, smooth_smooths c v.fy k.y, rfl, rfl, rfl⟩

/-- The first sample through a filter that was just reset comes back (45_filters.md R270, R274). -/
theorem smoothed_first (c : Cfg) (f : Filter) (x : Int) (h : 1 ≤ c.maWindow) :
    smoothed c (smooth c (filterReset c f) x) = x := by
  cases hs : c.smooth
  · have : (0 : Nat) ≠ c.maWindow := by omega
    have : 0 < c.maWindow := h
    simp [smooth, smoothed, filterReset, MaState.clear, maPush, maMean, *]
  · simp [smooth, smoothed, filterReset, hs, IirState.clear, decayPush, decayValue]

/-- An allocated finger (R246). -/
theorem allocFinger_allocates (c : Cfg) (v : VFinger) (k : Contact) (b : Bool) :
    Allocates c k b v (allocFinger c v k b) where
  bound := ⟨_, _, filterReset_resets c v.fx, filterReset_resets c v.fy, rfl, smooth_smooths c _ k.x, smooth_smooths c _ k.y,
    rfl, rfl, rfl⟩
  first := fun h => ⟨smoothed_first c v.fx k.x h, smoothed_first c v.fy k.y h⟩

/-- A released finger (R249). -/
theorem releaseFinger_releases (c : Cfg) (v : VFinger) : Releases c v (releaseFinger c v) :=
  ⟨rfl, ⟨rfl, rfl, rfl, rfl, rfl⟩, filterReset_resets c v.fx, filterReset_resets c v.fy⟩

/-- An unmatched finger ages (R248). -/
theorem ageFinger_ages (c : Cfg) (v : VFinger) : Ages c v (ageFinger c v) := by
  rcases ageFinger_state c v with ⟨h, e⟩ | ⟨h, e⟩ <;> rw [e]
  · exact .inr ⟨h, releaseFinger_releases c v⟩
  · exact .inl ⟨h, rfl⟩

end Sys2Proof.Machine
end

