-- ==== Sys2Proof/Laws/Filters.lean ====
section
/-!
SUPPORT. The laws of the filter instances (45_filters.md): the moving-average invariant and the fingers it is part of, and what
reading an instance gives after another was written.
-/

namespace Sys2Proof.Machine

/-! ### The moving average -/

/-- Replacing entry i of a list adds the difference to its sum. -/
theorem sum_set {l : List Int} {i : Nat} (h : i < l.length) (x : Int) : (l.set i x).sum = l.sum + x - l.getD i 0 := by
  induction l generalizing i with
  | nil => simp at h
  | cons a l ih =>
    cases i with
    | zero => simp; ring
    | succ i =>
      simp only [List.length_cons, Nat.succ_lt_succ_iff] at h
      simp [ih h]; ring

/-- A fresh moving average is consistent (10_state.md R38). -/
theorem MaState.fresh_consistent {n : Nat} (h : 1 ≤ n) : (MaState.fresh n).Consistent n where
  size := by simp [MaState.fresh]
  count_le := Nat.zero_le _
  index_lt := h
  filling := fun _ => rfl
  total := by simp [MaState.fresh]

/-- MA.RESET keeps the invariant (R271). -/
theorem MaState.Consistent.clear {n : Nat} {m : MaState} (h : m.Consistent n) : m.clear.Consistent n where
  size := h.size
  count_le := Nat.zero_le _
  index_lt := Nat.lt_of_le_of_lt (Nat.zero_le _) h.index_lt
  filling := fun _ => rfl
  total := by simp [MaState.clear]

/-- MA.FILTER keeps the invariant (R270): while the window fills the sample is appended, then it replaces the oldest. -/
theorem MaState.Consistent.push {n : Nat} {m : MaState} (h : m.Consistent n) (x : Int) : (maPush n m x).Consistent n := by
  have h1 := h.count_le
  have h2 := h.index_lt
  have h3 := h.filling
  have h4 := h.size
  have h5 := h.total
  refine ⟨by simp [maPush, h4], ?_, ?_, ?_, ?_⟩
  · simp only [maPush]; split <;> omega
  · simp only [maPush]; split <;> omega
  · intro hc
    simp only [maPush] at hc ⊢
    split at hc
    · next hlt =>
      have := h3 hlt
      rw [if_neg (by omega), if_pos hlt, this]
    · omega
  · by_cases hc : m.count = n
    · have hlen : m.buf.length = m.count := by omega
      have htake : m.buf.take m.count = m.buf := List.take_of_length_le (by omega)
      rw [htake] at h5
      simp only [maPush, hc, if_pos, lt_irrefl, if_false]
      rw [List.take_of_length_le (by simp [h4]), sum_set (by omega), h5]
    · have hlt : m.count < n := by omega
      have hi := h3 hlt
      simp only [maPush, if_neg hc, if_pos hlt, hi]
      have ht : List.take (m.count + 1) (m.buf.set m.count x) = m.buf.take m.count ++ [x] := by
        apply List.ext_getElem
        · simp; omega
        · intro i hl hr
          simp only [List.getElem_take, List.getElem_set, List.getElem_append, List.length_take]
          by_cases e : m.count = i
          · subst e; simp
          · have : i < m.count := by simp at hl; omega
            simp [e, this]; omega
      rw [ht, h5]; simp

/-! ### The instances -/

/-- SMOOTH keeps the invariant of an instance. -/
theorem smooth_consistent {c : Cfg} {f : Filter} (h : f.ma.Consistent c.maWindow) (v : Int) :
    (smooth c f v).ma.Consistent c.maWindow := by
  unfold smooth
  split
  · exact h.push v
  · exact h

/-- FILTER_RESET keeps the invariant of an instance. -/
theorem filterReset_consistent {c : Cfg} {f : Filter} (h : f.ma.Consistent c.maWindow) :
    (filterReset c f).ma.Consistent c.maWindow := by
  unfold filterReset
  split
  · exact h.clear
  · exact h

/-- Reading an instance after one was written (R278). -/
theorem getInst_setInst (s : State) (i j : Inst) (f : Filter) :
    getInst (setInst s i f) j = if j = i then f else getInst s j := by
  cases i <;> cases j <;> simp [getInst, setInst, Fin.getElem_fin, Vector.getElem_set] <;> split <;> simp_all [Fin.ext_iff]
  all_goals omega

/-- Writing an instance changes no finger but in its filters (R278). -/
theorem setInst_finger (s : State) (i : Inst) (f : Filter) (k : Fin 5) :
    (setInst s i f).vf[k].state = s.vf[k].state ∧ (setInst s i f).vf[k].x = s.vf[k].x ∧
      (setInst s i f).vf[k].y = s.vf[k].y ∧ (setInst s i f).vf[k].z = s.vf[k].z ∧
      (setInst s i f).vf[k].button = s.vf[k].button ∧ (setInst s i f).vf[k].miss = s.vf[k].miss := by
  cases i with
  | bench => exact ⟨rfl, rfl, rfl, rfl, rfl, rfl⟩
  | fx i =>
    by_cases h : k = i
    · subst h; simp [setInst]
    · have e : (setInst s (.fx i) f).vf[k] = s.vf[k] := by rw [setInst, pool_get_set, if_neg h]
      rw [e]; simp
  | fy i =>
    by_cases h : k = i
    · subst h; simp [setInst]
    · have e : (setInst s (.fy i) f).vf[k] = s.vf[k] := by rw [setInst, pool_get_set, if_neg h]
      rw [e]; simp

/-! ### The fingers -/

/-- BIND of a Touching finger keeps the finger invariant (R245). -/
theorem bindFinger_consistent {c : Cfg} {v : VFinger} (hx : v.fx.ma.Consistent c.maWindow)
    (hy : v.fy.ma.Consistent c.maWindow) (ht : v.state = .touching) (k : Contact) (b : Bool) :
    (bindFinger c v k b).Consistent c where
  free_zero := fun h => by rw [bindFinger_state, ht] at h; cases h
  miss_le := fun _ => Nat.zero_le _
  fx := smooth_consistent hx k.x
  fy := smooth_consistent hy k.y

/-- An allocated finger is consistent (R246). -/
theorem allocFinger_consistent {c : Cfg} {v : VFinger} (h : v.Consistent c) (k : Contact) (b : Bool) :
    (allocFinger c v k b).Consistent c :=
  bindFinger_consistent (filterReset_consistent h.fx) (filterReset_consistent h.fy) rfl k b

/-- A released finger is consistent (R249). -/
theorem releaseFinger_consistent {c : Cfg} {v : VFinger} (h : v.Consistent c) : (releaseFinger c v).Consistent c where
  free_zero := fun _ => ⟨rfl, rfl, rfl, rfl, rfl⟩
  miss_le := fun e => nomatch e
  fx := filterReset_consistent h.fx
  fy := filterReset_consistent h.fy

/-- A finger in its grace frames is consistent (R248). -/
theorem ageFinger_consistent {c : Cfg} {v : VFinger} (h : v.Consistent c) (ht : v.state = .touching) :
    (ageFinger c v).Consistent c := by
  rcases ageFinger_state c v with ⟨-, e⟩ | ⟨hm, e⟩ <;> rw [e]
  · exact releaseFinger_consistent h
  · exact ⟨fun hf => absurd (ht.symm.trans hf) (by decide), fun _ => hm, h.fx, h.fy⟩

end Sys2Proof.Machine
end

