-- ==== Sys2Proof/Laws/PerInstr.lean ====
section
/-!
SUPPORT. The family RoundTrip, one lemma for every constructor of `Instr`: the word the encoder writes for a well-formed
operation decodes to it (30_encoding.md R72 to R80).
-/

namespace Sys2Proof.Laws.RoundTrip

/-- Decoding the word of a well-formed operation gives the operation. -/
def Statement (i : Instr) : Prop := i.wellFormed = true → decodeOpsel (encode i) = .ok i

/-- IDENT. -/
theorem ident : Statement .ident := fun _ => by decide

/-- RESET. -/
theorem reset : Statement .reset := fun _ => by decide

/-- DEC.V1.ONE. -/
theorem decV1One : Statement .decV1One := fun _ => by decide

/-- DEC.V1.STICK. -/
theorem decV1Stick : Statement .decV1Stick := fun _ => by decide

/-- DEC.V2.ONE. -/
theorem decV2One : Statement .decV2One := fun _ => by decide

/-- DEC.V2.STICK. -/
theorem decV2Stick : Statement .decV2Stick := fun _ => by decide

/-- DEC.V3.ONE. -/
theorem decV3One : Statement .decV3One := fun _ => by decide

/-- DEC.V3.MULTI. -/
theorem decV3Multi : Statement .decV3Multi := fun _ => by decide

/-- DEC.V3.STICK. -/
theorem decV3Stick : Statement .decV3Stick := fun _ => by decide

/-- DEC.V3R.ONE. -/
theorem decV3rOne : Statement .decV3rOne := fun _ => by decide

/-- DEC.V3R.MULTI. -/
theorem decV3rMulti : Statement .decV3rMulti := fun _ => by decide

/-- DEC.V3R.STICK. -/
theorem decV3rStick : Statement .decV3rStick := fun _ => by decide

/-- DEC.V4.ONE. -/
theorem decV4One : Statement .decV4One := fun _ => by decide

/-- DEC.V4.MULTI. -/
theorem decV4Multi : Statement .decV4Multi := fun _ => by decide

/-- DEC.V5.ONE. -/
theorem decV5One : Statement .decV5One := fun _ => by decide

/-- DEC.V5.MULTI. -/
theorem decV5Multi : Statement .decV5Multi := fun _ => by decide

/-- DEC.V6.ONE. -/
theorem decV6One : Statement .decV6One := fun _ => by decide

/-- DEC.V6.STICK. -/
theorem decV6Stick : Statement .decV6Stick := fun _ => by decide

/-- DEC.V7.IDLE. -/
theorem decV7Idle : Statement .decV7Idle := fun _ => by decide

/-- DEC.V7.TWO. -/
theorem decV7Two : Statement .decV7Two := fun _ => by decide

/-- DEC.V7.MULTI. -/
theorem decV7Multi : Statement .decV7Multi := fun _ => by decide

/-- DEC.V7.NEW. -/
theorem decV7New : Statement .decV7New := fun _ => by decide

/-- DEC.V7.STICK. -/
theorem decV7Stick : Statement .decV7Stick := fun _ => by decide

/-- DEC.V7.UNKNOWN. -/
theorem decV7Unknown : Statement .decV7Unknown := fun _ => by decide

/-- DEC.V8.IDLE. -/
theorem decV8Idle : Statement .decV8Idle := fun _ => by decide

/-- DEC.V8.ONE. -/
theorem decV8One : Statement .decV8One := fun _ => by decide

/-- DEC.V8.TWO. -/
theorem decV8Two : Statement .decV8Two := fun _ => by decide

/-- DEC.V8.MULTI. -/
theorem decV8Multi : Statement .decV8Multi := fun _ => by decide

/-- DEC.V8.STICK. -/
theorem decV8Stick : Statement .decV8Stick := fun _ => by decide

/-- DEC.V8.UNKNOWN. -/
theorem decV8Unknown : Statement .decV8Unknown := fun _ => by decide

/-- DEC.SS4P.IDLE. -/
theorem decSs4pIdle : Statement .decSs4pIdle := fun _ => by decide

/-- DEC.SS4P.ONE. -/
theorem decSs4pOne : Statement .decSs4pOne := fun _ => by decide

/-- DEC.SS4P.TWO. -/
theorem decSs4pTwo : Statement .decSs4pTwo := fun _ => by decide

/-- DEC.SS4P.MULTI. -/
theorem decSs4pMulti : Statement .decSs4pMulti := fun _ => by decide

/-- DEC.SS4P.STICK. -/
theorem decSs4pStick : Statement .decSs4pStick := fun _ => by decide

/-- DEC.SS4P.UNKNOWN. -/
theorem decSs4pUnknown : Statement .decSs4pUnknown := fun _ => by decide

/-- DEC.V9.*: every class nibble R74 lists. -/
theorem decV9 (cls : Nibble) : Statement (.decV9 cls) := by
  unfold Statement
  revert cls
  decide

/-- BITMAP. -/
theorem bitmap : Statement .bitmap := fun _ => by decide

/-- TRACK. -/
theorem track : Statement .track := fun _ => by decide

/-- MA.FILTER. -/
theorem maFilter : Statement .maFilter := fun _ => by decide

/-- MA.RESET. -/
theorem maReset : Statement .maReset := fun _ => by decide

/-- MA.OLDEST. -/
theorem maOldest : Statement .maOldest := fun _ => by decide

/-- MA.NEWEST. -/
theorem maNewest : Statement .maNewest := fun _ => by decide

/-- DECAY.FILTER. -/
theorem decayFilter : Statement .decayFilter := fun _ => by decide

/-- DECAY.RESET. -/
theorem decayReset : Statement .decayReset := fun _ => by decide

/-- UNDECAY.FILTER. -/
theorem undecayFilter : Statement .undecayFilter := fun _ => by decide

/-- UNDECAY.RESET. -/
theorem undecayReset : Statement .undecayReset := fun _ => by decide

end Sys2Proof.Laws.RoundTrip
end

