-- ==== Sys2Proof/Tests/Slice0.lean ====
section
/-!
SUPPORT. Tests of one step each: words written out from 30_encoding.md R72 to R80, and expected results taken from
95_test_vectors.md, from the worked tables of the rules (R230, R254, R255, R281 to R283, R314) and computed by hand from the
rules named; and for every obligation with hypotheses a witness that meets them.
-/

namespace Sys2Proof.Tests

open Sys2Proof Sys2Proof.Machine

/-! ### Helpers -/

/-- A Ready instance of the reference configuration with a descriptor and one packet presented. -/
def ready (f : Family) (byte0 mask0 : Byte) (caps : List Cap) (p : List Byte) : State :=
  { State.reset with devState := .ready, desc := ⟨f, byte0, mask0, caps⟩, inbox := [.pkt p] }

/-- A state with a packet as operand. -/
def holding (caps : List Cap) (p : List Byte) : State :=
  { State.reset with desc := { State.reset.desc with caps := caps }, opnd := { pkt := p } }

/-- The same with a group open that has n packets, entry 0 holding fields f. -/
def open_ (n : Nat) (f : Fields) (s : State) : State :=
  { s with ctx := { s.ctx with mpOpen := true, mpFill := n, mpFields := #v[f, {}, {}] } }

/-- A view of the next state, if there is one. -/
def after {α : Type} (o : Out) (f : State → α) : Option α :=
  match o with
  | .next t => some (f t)
  | _ => none

/-- Six bytes of packet. -/
def six : List Byte := [0, 0, 0, 0, 0, 0]

/-- Eight bytes of packet. -/
def eight : List Byte := [0, 0, 0, 0, 0, 0, 0, 0]

/-- A Touching finger at a point. -/
def finger (x y : Int) (miss : Nat) : VFinger := { VFinger.fresh 1 with state := .touching, x := x, y := y, miss := miss }

/-- A pool of two fingers, the others free. -/
def pool2 (a b : VFinger) : Vector VFinger 5 := #v[a, b, VFinger.fresh 1, VFinger.fresh 1, VFinger.fresh 1]

/-- The positions and states of a pool. -/
def seen (p : Vector VFinger 5) : List (FingerState × Int × Int × Nat) := p.toList.map fun v => (v.state, v.x, v.y, v.miss)

/-! ### Well-formedness: the class nibble of a V9 operation is the only operand, 0x0..0x6 -/

theorem test_illformed_v9_class7 : (Instr.decV9 7).wellFormed = false := by decide
theorem test_illformed_v9_class15 : (Instr.decV9 15).wellFormed = false := by decide
theorem test_wellformed_v9_class6 : (Instr.decV9 6).wellFormed = true := by decide

/-! ### Decoding: each word written out as KIND, A, B -/

theorem test_decode_ident : decodeOpsel 0b000100000000 = .ok .ident := by decide
theorem test_decode_reset : decodeOpsel 0b001000000000 = .ok .reset := by decide
theorem test_decode_decV1One : decodeOpsel 0b000000010001 = .ok .decV1One := by decide
theorem test_decode_decV1Stick : decodeOpsel 0b000000010101 = .ok .decV1Stick := by decide
theorem test_decode_decV2One : decodeOpsel 0b000000100001 = .ok .decV2One := by decide
theorem test_decode_decV2Stick : decodeOpsel 0b000000100101 = .ok .decV2Stick := by decide
theorem test_decode_decV3One : decodeOpsel 0b000000110001 = .ok .decV3One := by decide
theorem test_decode_decV3Multi : decodeOpsel 0b000000110011 = .ok .decV3Multi := by decide
theorem test_decode_decV3Stick : decodeOpsel 0b000000110101 = .ok .decV3Stick := by decide
theorem test_decode_decV3rOne : decodeOpsel 0b000001000001 = .ok .decV3rOne := by decide
theorem test_decode_decV3rMulti : decodeOpsel 0b000001000011 = .ok .decV3rMulti := by decide
theorem test_decode_decV3rStick : decodeOpsel 0b000001000101 = .ok .decV3rStick := by decide
theorem test_decode_decV4One : decodeOpsel 0b000001010001 = .ok .decV4One := by decide
theorem test_decode_decV4Multi : decodeOpsel 0b000001010011 = .ok .decV4Multi := by decide
theorem test_decode_decV5One : decodeOpsel 0b000001100001 = .ok .decV5One := by decide
theorem test_decode_decV5Multi : decodeOpsel 0b000001100011 = .ok .decV5Multi := by decide
theorem test_decode_decV6One : decodeOpsel 0b000001110001 = .ok .decV6One := by decide
theorem test_decode_decV6Stick : decodeOpsel 0b000001110101 = .ok .decV6Stick := by decide
theorem test_decode_decV7Idle : decodeOpsel 0b000010000000 = .ok .decV7Idle := by decide
theorem test_decode_decV7Two : decodeOpsel 0b000010000010 = .ok .decV7Two := by decide
theorem test_decode_decV7Multi : decodeOpsel 0b000010000011 = .ok .decV7Multi := by decide
theorem test_decode_decV7New : decodeOpsel 0b000010000100 = .ok .decV7New := by decide
theorem test_decode_decV7Stick : decodeOpsel 0b000010000101 = .ok .decV7Stick := by decide
theorem test_decode_decV7Unknown : decodeOpsel 0b000010000110 = .ok .decV7Unknown := by decide
theorem test_decode_decV8Idle : decodeOpsel 0b000010010000 = .ok .decV8Idle := by decide
theorem test_decode_decV8One : decodeOpsel 0b000010010001 = .ok .decV8One := by decide
theorem test_decode_decV8Two : decodeOpsel 0b000010010010 = .ok .decV8Two := by decide
theorem test_decode_decV8Multi : decodeOpsel 0b000010010011 = .ok .decV8Multi := by decide
theorem test_decode_decV8Stick : decodeOpsel 0b000010010101 = .ok .decV8Stick := by decide
theorem test_decode_decV8Unknown : decodeOpsel 0b000010010110 = .ok .decV8Unknown := by decide
theorem test_decode_decSs4pIdle : decodeOpsel 0b000010100000 = .ok .decSs4pIdle := by decide
theorem test_decode_decSs4pOne : decodeOpsel 0b000010100001 = .ok .decSs4pOne := by decide
theorem test_decode_decSs4pTwo : decodeOpsel 0b000010100010 = .ok .decSs4pTwo := by decide
theorem test_decode_decSs4pMulti : decodeOpsel 0b000010100011 = .ok .decSs4pMulti := by decide
theorem test_decode_decSs4pStick : decodeOpsel 0b000010100101 = .ok .decSs4pStick := by decide
theorem test_decode_decSs4pUnknown : decodeOpsel 0b000010100110 = .ok .decSs4pUnknown := by decide
theorem test_decode_bitmap : decodeOpsel 0b001100000000 = .ok .bitmap := by decide
theorem test_decode_track : decodeOpsel 0b010000000000 = .ok .track := by decide
theorem test_decode_maFilter : decodeOpsel 0b010100000000 = .ok .maFilter := by decide
theorem test_decode_maReset : decodeOpsel 0b010100000001 = .ok .maReset := by decide
theorem test_decode_maOldest : decodeOpsel 0b010100000010 = .ok .maOldest := by decide
theorem test_decode_maNewest : decodeOpsel 0b010100000011 = .ok .maNewest := by decide
theorem test_decode_decayFilter : decodeOpsel 0b010100010000 = .ok .decayFilter := by decide
theorem test_decode_decayReset : decodeOpsel 0b010100010001 = .ok .decayReset := by decide
theorem test_decode_undecayFilter : decodeOpsel 0b010100100000 = .ok .undecayFilter := by decide
theorem test_decode_undecayReset : decodeOpsel 0b010100100001 = .ok .undecayReset := by decide
theorem test_decode_decV9_0 : decodeOpsel 0b000010110000 = .ok (.decV9 0) := by decide
theorem test_decode_decV9_6 : decodeOpsel 0b000010110110 = .ok (.decV9 6) := by decide
theorem test_reserved_kind6 : decodeOpsel 0x600 = .error .kind := by decide
theorem test_reserved_family0 : decodeOpsel 0x001 = .error .family := by decide
theorem test_reserved_familyC : decodeOpsel 0x0C1 = .error .family := by decide
theorem test_reserved_class7 : decodeOpsel 0x037 = .error .packetClass := by decide
theorem test_reserved_pair : decodeOpsel 0x055 = .error .pair := by decide
theorem test_reserved_v9_class7 : decodeOpsel 0x0B7 = .error .packetClass := by decide
theorem test_reserved_ident_operand : decodeOpsel 0x101 = .error .operandField := by decide
theorem test_reserved_filter : decodeOpsel 0x512 = .error .filterField := by decide
theorem test_bytes_low_first : decodeBytes [0x53, 0x00] = .ok .decV4Multi := by decide
theorem test_bytes_high_bit : decodeBytes [0x53, 0x10] = .error .notAWord := by decide
theorem test_table_word : decodeTableWord 16 0x0A5 = some .decSs4pStick := by decide
theorem test_table_word_longer : decodeTableWord 32 0x10011 = none := by decide
theorem test_reference_configuration_valid : Reference.cfg.valid = true := by decide

/-! ### Packets (95_test_vectors.md section 2) -/

theorem test_v1_golden_coordinate :
    after (step (ready .v1 0x88 0xF8 [.dualpoint] [0x88, 0x64, 0x02, 0x01, 0x48, 0x30]))
      (fun t => (t.fields.st, t.fields.pressure, t.report.touches)) =
      some (⟨100, 200⟩, 48, [⟨100, 200, 48, true, 0⟩]) := by decide
theorem test_v1_gesture_forces_pressure :
    after (step (ready .v1 0x88 0xF8 [.dualpoint] [0x88, 0x64, 0x01, 0x01, 0x48, 0x30]))
      (fun t => (t.fields.pressure, t.ctx.prevFin)) = some (40, false) := by decide
theorem test_v1_stick_wraps :
    after (step (ready .v1 0x88 0xF8 [.dualpoint] [0x8B, 0x00, 0x00, 0x02, 0x00, 0x7F]))
      (fun t => (t.report.stickDx, t.report.stickDy)) = some (-384, 256) := by decide
theorem test_v2_position :
    after (step (ready .v2 0xF8 0xF8 [.dualpoint] [0xF8, 0x68, 0x3A, 0x31, 0x74, 0x20]))
      (fun t => (t.fields.st, t.fields.pressure, t.report.tpButtons)) = some (⟨1000, 500⟩, 32, 1) := by decide
theorem test_v2_stick :
    after (step (ready .v2 0xF8 0xF8 [.dualpoint] [0xF8, 0x7F, 0x00, 0x04, 0x01, 0x7F]))
      (fun t => (t.report.stickDx, t.report.stickDy, t.report.tsButtons)) = some (127, -1, 4) := by decide
theorem test_v3_position :
    after (step (ready .v3 0x8F 0x8F [.dualpoint] [0x9F, 0x40, 0x20, 0x01, 0x05, 0x28]))
      (fun t => (t.fields.st, t.fields.pressure, t.fields.left)) = some (⟨1025, 517⟩, 40, true) := by decide
theorem test_v3_opener_is_silent :
    after (step (ready .v3 0x8F 0x8F [.dualpoint] [0x9F, 0x40, 0x20, 0x01, 0x45, 0x28]))
      (fun t => (t.status.result, t.ctx.mpOpen, t.ctx.mpFill)) = some (.silent, true, 1) := by decide
theorem test_v3_group_ends :
    after (step (open_ 1 { st := ⟨1025, 517⟩, pressure := 40, left := true, fingers := 1, firstMp := true }
        (ready .v3 0x8F 0x8F [.dualpoint] [0xCF, 0x01, 0x03, 0x00, 0x00, 0x01])))
      (fun t => (t.report.touches, t.report.tpButtons)) =
      some ([⟨20, 10, 40, true, 0⟩, ⟨20, 20, 40, true, 1⟩], 1) := by decide
theorem test_v3_continuation_without_group :
    after (step (ready .v3 0x8F 0x8F [.dualpoint] [0xCF, 0x01, 0x03, 0x00, 0x00, 0x01])) (fun t => t.status) =
      some ⟨.error, 3, false, false⟩ := by decide
theorem test_v3_stick :
    after (step (ready .v3 0x8F 0x8F [.dualpoint] [0xEF, 0x10, 0x08, 0x00, 0x20, 0x3F]))
      (fun t => (t.report.stickDx, t.report.stickDy, t.report.stickZ)) = some (-14, -1, 32) := by decide
theorem test_v3_stick_truncates :
    after (step (ready .v3 0x8F 0x8F [.dualpoint] [0xEF, 0x79, 0x00, 0x01, 0x05, 0x3F]))
      (fun t => (t.report.stickDx, t.report.tsButtons)) = some (0, 1) := by decide
theorem test_v3r_position :
    after (step (ready .v3r 0x8F 0x8F [.dualpoint] [0x9F, 0x40, 0x20, 0x01, 0x05, 0x28]))
      (fun t => (t.fields.st, t.fields.pressure)) = some (⟨1025, 517⟩, 40) := by decide
theorem test_v3r_group_falls_back :
    after (step (open_ 1 { st := ⟨1025, 517⟩, pressure := 40, fingers := 1, firstMp := true }
        (ready .v3r 0x8F 0x8F [.dualpoint] [0x8F, 0x00, 0x00, 0x00, 0x00, 0x79])))
      (fun t => (t.report.touches, t.report.fingers)) = some ([⟨1025, 517, 40, true, 0⟩], 3) := by decide
theorem test_v3r_stick :
    after (step (ready .v3r 0x8F 0x8F [.dualpoint] [0xEF, 0x10, 0x08, 0x00, 0x20, 0x3F]))
      (fun t => (t.report.stickDx, t.report.stickDy)) = some (-14, -1) := by decide
theorem test_v4_opener :
    after (step (ready .v4 0x8F 0x8F [] [0x8F, 0x40, 0x20, 0x00, 0x01, 0x30, 0x44, 0x01]))
      (fun t => (t.ctx.mpFill, t.ctx.mpMem.read 6, t.ctx.mpFields[0].st)) = some (1, 0x44, ⟨1024, 512⟩) := by decide
theorem test_v4_group_ends :
    after (step
        { open_ 2 {} (ready .v4 0x8F 0x8F [] [0x8F, 0x40, 0x20, 0x00, 0x00, 0x30, 0x00, 0x00]) with
          ctx := { State.reset.ctx with mpOpen := true, mpFill := 2, mpMem := [(6, 0x44), (7, 0x01), (15, 0x04)] } })
      (fun t => t.report.touches) = some [⟨40, 0, 48, true, 0⟩, ⟨40, 70, 48, true, 1⟩] := by decide
theorem test_v5_position :
    after (step (ready .v5 0xC8 0xC8 [] [0xC8, 0x10, 0x20, 0x00, 0x21, 0x28]))
      (fun t => (t.fields.st, t.fields.pressure)) = some (⟨144, 288⟩, 40) := by decide
theorem test_v5_no_touch :
    after (step (ready .v5 0xC8 0xC8 [] [0xCC, 0x10, 0x20, 0x00, 0x21, 0x28]))
      (fun t => (t.fields.pressure, t.fields.fingers)) = some (0, 0) := by decide
theorem test_v5_group_ends :
    after (step (open_ 1 { st := ⟨144, 288⟩, pressure := 40, fingers := 1, firstMp := true }
        (ready .v5 0xC8 0xC8 [] [0xEC, 0x05, 0x50, 0x00, 0x00, 0x00])))
      (fun t => t.report.touches) = some [⟨0, 0, 40, true, 0⟩, ⟨20, 20, 40, true, 1⟩] := by decide
theorem test_v5_seven_fingers :
    after (step (open_ 1 { st := ⟨144, 288⟩, pressure := 40, fingers := 1, firstMp := true }
        (ready .v5 0xC8 0xC8 [] [0xFE, 0x05, 0x50, 0x00, 0x00, 0x00])))
      (fun t => (t.report.fingers, t.status)) = some (5, ⟨.error, 5, true, true⟩) := by decide
theorem test_v6_position :
    after (step (ready .v6 0 0 [.dualpoint] [0x00, 0x20, 0x30, 0x08, 0x10, 0x40]))
      (fun t => (t.fields.st, t.fields.pressure)) = some (⟨160, 304⟩, 64) := by decide
theorem test_v6_stick :
    after (step (ready .v6 0 0 [.dualpoint] [0x00, 0x08, 0xF8, 0x00, 0x05, 0x7F]))
      (fun t => (t.report.stickDx, t.report.stickDy, t.report.stickZ)) = some (2, 2, 5) := by decide
theorem test_v6_stick_lift :
    after (step (ready .v6 0 0 [.dualpoint] [0x00, 0x7F, 0x7F, 0x00, 0x7F, 0x7F]))
      (fun t => (t.report.stickDx, t.report.stickDy, t.report.stickZ)) = some (0, 0, 0) := by decide
theorem test_v7_idle_ages :
    after (step { ready .v7 0x48 0x48 [] [0x48, 0x00, 0x00, 0x00, 0x00, 0x00] with vf := pool2 (finger 5 6 0) (finger 7 8 1) })
      (fun t => (t.vf[0].miss, t.vf[0].state, t.vf[1].state, t.status.result)) =
      some (1, .touching, .free, .silent) := by decide
theorem test_v7_two :
    after (step (ready .v7 0x48 0x48 [] [0x48, 0x20, 0x85, 0x12, 0x45, 0x05])) (fun t => t.report.touches) =
      some [⟨2218, 1791, 0, true, 0⟩, ⟨80, 1952, 0, true, 1⟩] := by decide
theorem test_v7_multi :
    after (step (ready .v7 0x48 0x48 [] [0x48, 0x20, 0x85, 0x12, 0x01, 0x06]))
      (fun t => (t.fields.mt[1], t.report.fingers)) = some (⟨0, 1952⟩, 5) := by decide
theorem test_v7_resting_fingers_clamped :
    after (step (ready .v7 0x48 0x48 [.buttonpad] [0x78, 0x20, 0x85, 0x12, 0x01, 0x07])) (fun t => t.status) =
      some ⟨.error, 5, true, true⟩ := by decide
theorem test_v7_new_is_dropped :
    after (step (ready .v7 0x48 0x48 [] [0x58, 0x00, 0x00, 0x00, 0x00, 0x00])) (fun t => (t.status.result, t.fields.cls)) =
      some (.silent, 4) := by decide
theorem test_v7_stick :
    after (step (ready .v7 0x48 0x48 [.dualpoint] [0x48, 0x01, 0x10, 0x00, 0x06, 0x20]))
      (fun t => (t.report.stickDx, t.report.stickZ, t.report.tsButtons)) = some (16, 32, 1) := by decide
theorem test_v7_stick_without_dualpoint :
    after (step (ready .v7 0x48 0x48 [] [0x48, 0x01, 0x10, 0x00, 0x06, 0x20])) (fun t => t.status) =
      some ⟨.silent, 0, false, false⟩ := by decide
theorem test_v7_unknown :
    after (step (ready .v7 0x48 0x48 [] [0x48, 0x01, 0x00, 0x00, 0x00, 0x00])) (fun t => t.status) =
      some ⟨.error, 4, false, false⟩ := by decide
theorem test_v8_idle :
    after (step (ready .v8 0x18 0x18 [.dualpoint] [0x18, 0x10, 0x00, 0x08, 0x10, 0x00]))
      (fun t => (t.status.result, t.fields.cls)) = some (.silent, 0) := by decide
theorem test_v8_one :
    after (step (ready .v8 0x18 0x18 [.dualpoint] [0x1B, 0x25, 0x47, 0x40, 0x03, 0x14])) (fun t => t.report.touches) =
      some [⟨2219, 215, 8, true, 0⟩] := by decide
theorem test_v8_two :
    after (step (ready .v8 0x18 0x18 [.dualpoint] [0x1A, 0x49, 0x23, 0x11, 0x81, 0x14])) (fun t => t.report.touches) =
      some [⟨2368, 608, 48, true, 0⟩, ⟨4128, 128, 48, true, 1⟩] := by decide
theorem test_v8_group_ends :
    after (step (open_ 1
        { mt := #v[⟨2368, 608⟩, ⟨4128, 128⟩, ⟨0, 0⟩, ⟨0, 0⟩, ⟨0, 0⟩], npos := 2, pressure := 48, firstMp := true }
        (ready .v8 0x18 0x18 [.dualpoint] [0x19, 0x30, 0x05, 0x37, 0xFA, 0xEF])))
      (fun t => t.report.touches) =
      some [⟨2368, 608, 48, true, 0⟩, ⟨4128, 128, 48, true, 1⟩, ⟨1568, 160, 48, true, 2⟩] := by decide
theorem test_v8_stick :
    after (step (ready .v8 0x18 0x18 [.dualpoint] [0x18, 0x05, 0x7E, 0x21, 0x10, 0x00]))
      (fun t => (t.report.stickDx, t.report.stickDy, t.report.stickZ)) = some (5, 2, 16) := by decide
theorem test_v8_unknown_by_word :
    after (exec .decV8Unknown State.reset) (fun t => t.status) = some ⟨.error, 4, false, false⟩ := by decide
theorem test_ss4p_idle :
    after (step (ready .ss4p 0x18 0x18 [] [0x18, 0x10, 0x00, 0x08, 0x10, 0x00]))
      (fun t => (t.status.result, t.fields.cls)) = some (.silent, 0) := by decide
theorem test_ss4p_one :
    after (step (ready .ss4p 0x18 0x18 [] [0x1B, 0x25, 0x47, 0x40, 0x03, 0x14])) (fun t => t.fields.st) =
      some ⟨2219, 215⟩ := by decide
theorem test_ss4p_two :
    after (step (ready .ss4p 0x18 0x18 [] [0x1A, 0x49, 0x23, 0x11, 0x81, 0x14])) (fun t => (t.fields.mt[0], t.fields.mt[1])) =
      some (⟨1184, 608⟩, ⟨2064, 128⟩) := by decide
theorem test_ss4p_group_ends :
    after (step (open_ 1
        { mt := #v[⟨1184, 608⟩, ⟨2064, 128⟩, ⟨0, 0⟩, ⟨0, 0⟩, ⟨0, 0⟩], npos := 2, pressure := 48, firstMp := true }
        (ready .ss4p 0x18 0x18 [] [0x1F, 0xFF, 0x05, 0x37, 0xFA, 0xEF])))
      (fun t => (t.fields.fingers, t.report.touches)) =
      some (3, [⟨1184, 608, 48, true, 0⟩, ⟨2064, 128, 48, true, 1⟩, ⟨4080, 176, 48, true, 2⟩]) := by decide
theorem test_ss4p_stick_dropped :
    after (step (ready .ss4p 0x18 0x18 [] [0x18, 0x05, 0x7E, 0x21, 0x10, 0x00])) (fun t => (t.status.result, t.fields.cls)) =
      some (.silent, 5) := by decide
theorem test_ss4p_unknown_by_word :
    after (exec .decSs4pUnknown State.reset) (fun t => t.status) = some ⟨.error, 4, false, false⟩ := by decide
theorem test_v9_is_refused :
    after (step (ready .v9 0 0 [] six)) (fun t => (t.status.result, t.refused)) = some (.refused, true) := by decide

/-! ### Identification, reset and errors (95_test_vectors.md S1, 2.12, 2.13; 60_exceptions.md R314) -/

theorem test_ident_hit :
    after (step { State.reset with inbox := [.ident ⟨0x73, 0x02, 0x64⟩ ⟨0x88, 0x07, 0x9D⟩] })
      (fun t => (t.devState, t.desc.fam, t.ctx.fwVersion)) = some (.ready, .v4, ⟨0x88, 0x07, 0x9D⟩) := by decide
theorem test_ident_miss :
    after (step { State.reset with inbox := [.ident ⟨0xF3, 0x02, 0x64⟩ ⟨0, 0, 0⟩] }) (fun t => (t.devState, t.status)) =
      some (.failed, ⟨.error, 1, false, false⟩) := by decide
theorem test_reset_frees_the_pool :
    after (step { ready .v7 0 0 [] [] with inbox := [.reset], vf := pool2 (finger 5 6 0) (finger 7 8 0), refused := true })
      (fun t => (t.devState, t.vf[1].state, t.refused)) = some (.unidentified, .free, true) := by decide
theorem test_packet_before_ident :
    after (step { State.reset with inbox := [.pkt [0x0F, 0x00]] }) (fun t => t.status) =
      some ⟨.error, 1, false, false⟩ := by decide
theorem test_resync_keeps_the_group :
    after (step (open_ 1 {} (ready .v8 0x18 0x18 [] [0x08, 0x49, 0x33, 0x11, 0x81, 0x14])))
      (fun t => (t.status.err, t.ctx.mpOpen, t.ctx.mpFill)) = some (2, true, 1) := by decide
theorem test_withFetchWord_runs_maNewest :
    after (step (State.reset.withFetchWord 16 0x503)) (fun t => (t.ret.value, t.inbox)) = some (0, []) := by decide
theorem test_withFetchWord_runs_v9 :
    after (step (State.reset.withFetchWord 16 0x0B3)) (fun t => (t.status.result, t.refused)) = some (.refused, true) := by
  decide

/-! ### BITMAP (43_bitmap.md R230; 95_test_vectors.md 2.9) -/

/-- The reversal case of R231, set for V5 alone: V4's point stays that of R230's row 4. -/
theorem test_bitmap_one_finger_reversed_for_one_family :
    let c := { Reference.cfg with scale := { Reference.cfg.scale with v5 := { Reference.cfg.scale.v5 with revX := true } } }
    let s (f : Family) : State :=
      { State.reset with
        cfg := c, desc := { Descriptor.initial with fam := f }, opnd := { xm := 0x0010, ym := 0x004, fingers := 1 } }
    after (exec .bitmap (s .v5)) (fun t => t.ret.points) = some [⟨100, 20⟩] ∧
      after (exec .bitmap (s .v4)) (fun t => t.ret.points) = some [⟨40, 20⟩] := by decide
theorem test_bitmap_crossed :
    after (exec .bitmap
        { State.reset with
          ctx := { State.reset.ctx with bmPrevValid := true, bmPrev0 := ⟨20, 20⟩, bmPrev1 := ⟨20, 10⟩ }
          opnd := { xm := 0x0004, ym := 0x006, fingers := 2 } })
      (fun t => (t.ret.points, t.ctx.bmOrient)) = some ([⟨20, 20⟩, ⟨20, 10⟩], .crossed) := by decide

/-! ### TRACK (44_tracker.md R254; 95_test_vectors.md 2.10) -/

theorem test_track_by_distance_not_slot :
    after (exec .track
        { State.reset with
          vf := pool2 (finger 100 100 0) (finger 500 500 0)
          opnd := { contacts := [⟨502, 498, 0, 0⟩, ⟨101, 99, 0, 1⟩] } })
      (fun t => (seen t.vf).take 2) = some [(.touching, 101, 99, 0), (.touching, 502, 498, 0)] := by decide
/-- Both contacts are beyond the threshold: slot 0 takes the one free tag, slot 1 is dropped (R246, R247). -/
theorem test_track_beyond_the_threshold :
    after (exec .track
        { State.reset with
          cfg := { Reference.cfg with metric := .manhattan, matchMaxDist := some 7 }
          vf := #v[finger 0 0 0, finger 0 0 0, finger 0 0 1, VFinger.fresh 1, finger 0 0 0]
          opnd := { contacts := [⟨90, 90, 9, 1⟩, ⟨3, 5, 9, 0⟩] } })
      (fun t => (seen t.vf, t.status.cap)) =
      some ([(.touching, 0, 0, 1), (.touching, 0, 0, 1), (.free, 0, 0, 0), (.touching, 3, 5, 0), (.touching, 0, 0, 1)], true) := by
  decide

/-! ### Filters (45_filters.md R281 to R283; 95_test_vectors.md 2.11) -/

/-- An instance with a moving average of window 3 and a decaying average, and a sample to feed it. -/
def feeding (ma : MaState) (iir : IirState) (x : Int) : State :=
  { State.reset with
    cfg := { Reference.cfg with maWindow := 3 }, bench := ⟨ma, iir, iir⟩, opnd := { sample := x } }

theorem test_maFilter_drops_the_oldest :
    after (exec .maFilter (feeding ⟨[1, 2, 3], 3, 6, 0⟩ ⟨0, false⟩ 4)) (fun t => (t.ret.value, t.bench.ma)) =
      some (3, ⟨[4, 2, 3], 3, 9, 1⟩) := by decide
theorem test_maFilter_truncates_to_zero :
    after (exec .maFilter (feeding ⟨[-1, 0, 0], 1, -1, 1⟩ ⟨0, false⟩ (-2))) (fun t => t.ret.value) = some (-1) := by decide
theorem test_maReset_empties :
    after (exec .maReset (feeding ⟨[1, 2, 3], 3, 6, 0⟩ ⟨0, false⟩ 4)) (fun t => t.bench.ma) =
      some ⟨[1, 2, 3], 0, 0, 0⟩ := by decide
theorem test_maOldest_after_the_wrap :
    after (exec .maOldest (feeding ⟨[4, 2, 3], 3, 9, 1⟩ ⟨0, false⟩ 0)) (fun t => t.ret.value) = some 2 := by decide
theorem test_maNewest_after_the_wrap :
    after (exec .maNewest (feeding ⟨[4, 2, 3], 3, 9, 1⟩ ⟨0, false⟩ 0)) (fun t => t.ret.value) = some 4 := by decide
theorem test_decayFilter :
    after (exec .decayFilter (feeding ⟨[0, 0, 0], 0, 0, 0⟩ ⟨15, true⟩ 20)) (fun t => (t.ret.value, t.bench.decay)) =
      some (17, ⟨17, true⟩) := by decide
theorem test_decayReset :
    after (exec .decayReset (feeding ⟨[0, 0, 0], 0, 0, 0⟩ ⟨15, true⟩ 20)) (fun t => t.bench.decay.lastvalid) =
      some false := by decide
theorem test_undecayFilter_inexact :
    after (exec .undecayFilter (feeding ⟨[0, 0, 0], 0, 0, 0⟩ ⟨11, true⟩ 15)) (fun t => (t.ret.value, t.bench.undecay)) =
      some (19, ⟨15, true⟩) := by decide
theorem test_undecayReset :
    after (exec .undecayReset (feeding ⟨[0, 0, 0], 0, 0, 0⟩ ⟨15, true⟩ 20)) (fun t => t.bench.undecay.lastvalid) =
      some false := by decide

/-! ### Witnesses: for every obligation with hypotheses, states and operands that meet them -/

theorem test_witness_WordsRoundTrip :
    (Instr.decV9 0).wellFormed = true ∧ (Instr.decV9 6).wellFormed = true ∧ Instr.ident.wellFormed = true ∧
      12 ≤ 12 := by decide
theorem test_witness_StepRunsTheDecodedOperation :
    (fetch { State.reset with inbox := [.reset] } =
        .run 0x200 { State.reset with inbox := [], opnd := {} } ∧
      decodeOpsel 0x200 = .ok .reset ∧ (∃ u, exec .reset { State.reset with inbox := [], opnd := {} } = .next u)) ∧
    (fetch { State.reset with inbox := [.seq 0x011 {}] } = .run 0x011 { State.reset with inbox := [], opnd := {} } ∧
      decodeOpsel 0x011 = .ok .decV1One ∧
      exec .decV1One { State.reset with inbox := [], opnd := {} } = .fault .pktAddress) ∧
    (fetch { State.reset with inbox := [.seq 0x600 {}] } = .run 0x600 { State.reset with inbox := [], opnd := {} } ∧
      decodeOpsel 0x600 = .error .kind) :=
  ⟨⟨rfl, rfl, _, rfl⟩, ⟨rfl, rfl, rfl⟩, rfl, rfl⟩
/-- The second clause: a valid configuration, and an IDENT, a RESET or a word at the head of the port. -/
theorem test_witness_StepRunsTheDecodedOperation_ports :
    State.reset.cfg.valid = true ∧
      ({ State.reset with inbox := [.ident ⟨0x73, 0x02, 0x64⟩ ⟨0x88, 0x07, 0x9D⟩] }).inbox =
        .ident ⟨0x73, 0x02, 0x64⟩ ⟨0x88, 0x07, 0x9D⟩ :: [] ∧
      ({ State.reset with inbox := [.reset, .reset] }).inbox = .reset :: [.reset] ∧
      ({ State.reset with inbox := [.seq 0x600 {}] }).inbox = .seq 0x600 {} :: [] := by decide
/-- A packet of V4 that passes every check. -/
theorem test_witness_PacketRunsItsOperation :
    let s := ready .v4 0x8F 0x8F [] [0x8F, 0, 0, 0, 0, 0, 0, 0]
    s.cfg.valid = true ∧ s.inbox = .pkt [0x8F, 0, 0, 0, 0, 0, 0, 0] :: [] ∧ s.devState = .ready ∧
      [(0x8F : Byte), 0, 0, 0, 0, 0, 0, 0].length = s.cfg.pktLen.get s.desc.fam ∧
      byteAt [0x8F, 0, 0, 0, 0, 0, 0, 0] 0 &&& s.desc.mask0 = s.desc.byte0 ∧ s.desc.fam ≠ .v9 := by decide
theorem test_witness_PacketBeforeIdentification :
    let s := { State.reset with inbox := [.pkt six] }
    let t := { s with devState := .failed }
    (s.cfg.valid = true ∧ s.inbox = .pkt six :: [] ∧ s.devState = .unidentified) ∧
      (t.cfg.valid = true ∧ t.inbox = .pkt six :: [] ∧ t.devState = .failed) := by decide
/-- One byte short, one byte long, and the wrong first byte. -/
theorem test_witness_ResyncChangesNothing :
    (∀ p ∈ [six, [0, 0, 0, 0, 0], [0, 0, 0, 0, 0, 0, 0]],
      let s := ready .v7 0x48 0x48 [] p
      s.cfg.valid = true ∧ s.inbox = .pkt p :: [] ∧ s.devState = .ready) ∧
    [(0 : Byte), 0, 0, 0, 0].length ≠ Reference.pktLen.get .v7 ∧
    [(0 : Byte), 0, 0, 0, 0, 0, 0].length ≠ Reference.pktLen.get .v7 ∧ byteAt six 0 &&& 0x48 ≠ 0x48 := by decide
theorem test_witness_V9IsRefused :
    let s := ready .v9 0 0 [] six
    s.cfg.valid = true ∧ s.inbox = .pkt six :: [] ∧ s.devState = .ready ∧ six.length = s.cfg.pktLen.get s.desc.fam ∧
      byteAt six 0 &&& s.desc.mask0 = s.desc.byte0 ∧ s.desc.fam = .v9 := by decide
/-- One byte less than the layout reads, in every family. -/
theorem test_witness_ShortPacketsFault :
    ∀ f ∈ [Family.v1, .v2, .v3, .v3r, .v5, .v6, .v7, .v8, .ss4p],
      ([0, 0, 0, 0, 0] : List Byte).length < State.reset.cfg.layouts.reach f ∨
        f = .v4 := by decide
theorem test_witness_ShortPacketsFault_v4 :
    ([0, 0, 0, 0, 0, 0, 0] : List Byte).length < State.reset.cfg.layouts.reach .v4 := by decide
/-- A configuration that breaks the constraints, and that the check finds so. -/
abbrev Breaks (c : Cfg) : Prop := ¬MeetsConstraints c ∧ c.valid = false

/-- Just outside each bound that is a number: X_BITS and Y_BITS, the filter parameters. -/
theorem test_witness_InvalidConfigurationRefuses :
    let g := Reference.cfg.geom
    Breaks { Reference.cfg with geom := { g with xBits := 0 } } ∧
      Breaks { Reference.cfg with geom := { g with xBits := 33 } } ∧
      Breaks { Reference.cfg with geom := { g with yBits := 0 } } ∧
      Breaks { Reference.cfg with geom := { g with yBits := 33 } } ∧
      Breaks { Reference.cfg with maWindow := 0 } ∧ Breaks { Reference.cfg with decayN1 := 0 } ∧
      Breaks { Reference.cfg with decayN2 := -1 } ∧ Breaks { Reference.cfg with decayD := 0 } :=
  ⟨⟨fun h => absurd h.xBits (by decide), by decide⟩,
    ⟨fun h => absurd h.xBits (by decide), by decide⟩,
    ⟨fun h => absurd h.yBits (by decide), by decide⟩,
    ⟨fun h => absurd h.yBits (by decide), by decide⟩,
    ⟨fun h => absurd h.window (by decide), by decide⟩,
    ⟨fun h => absurd h.decayN1 (by decide), by decide⟩,
    ⟨fun h => absurd h.decayN2 (by decide), by decide⟩,
    ⟨fun h => absurd h.decayD (by decide), by decide⟩⟩
/-- The other constraints: a signature twice, the reserved family codes 0 and 0xC, packet lengths 0 and 9, a class its family
does not have, a layout one byte longer than its packet, a stick divisor 0, a map term past the collected bytes. -/
theorem test_witness_InvalidConfigurationRefuses_tables :
    let e : RegEntry := Reference.entry ⟨1, 2, 3⟩ .v1 []
    let n := Reference.pktLen
    let L := Reference.layouts
    Breaks { Reference.cfg with registry := [e, { e with tag := 2 }] } ∧
      Breaks { Reference.cfg with registry := [{ e with tag := 0 }] } ∧
      Breaks { Reference.cfg with registry := [{ e with tag := 0xC }] } ∧
      Breaks { Reference.cfg with pktLen := { n with v9 := 0 } } ∧
      Breaks { Reference.cfg with pktLen := { n with v9 := 9 } } ∧
      Breaks { Reference.cfg with classify := { Reference.classify with v1 := ⟨[], 2⟩ } } ∧
      Breaks { Reference.cfg with pktLen := { n with v4 := 7 } } ∧
      Breaks { Reference.cfg with layouts := { L with v7 := { L.v7 with stick := { L.v7.stick with yDiv := 0 } } } } ∧
      Breaks { Reference.cfg with layouts := { L with v4 := { L.v4 with yMap := [⟨6, 0x01, 0⟩] } } } :=
  ⟨⟨fun h => absurd h.signatures (by decide), by decide⟩,
    ⟨fun h => absurd h.tags (by decide), by decide⟩,
    ⟨fun h => absurd h.tags (by decide), by decide⟩,
    ⟨fun h => absurd (h.pktLen .v9) (by decide), by decide⟩,
    ⟨fun h => absurd (h.pktLen .v9) (by decide), by decide⟩,
    ⟨fun h => absurd (h.classes .v1 (by decide)).1 (by decide), by decide⟩,
    ⟨fun h => absurd (h.reads .v4 (by decide)).1 (by decide), by decide⟩,
    ⟨fun h => absurd h.divisors (by decide), by decide⟩,
    ⟨fun h => absurd h.maps (by decide), by decide⟩⟩
/-- The bounds themselves are allowed. -/
theorem test_configuration_bounds_valid :
    let g := Reference.cfg.geom
    Cfg.valid { Reference.cfg with geom := { g with xBits := 1, yBits := 32 }, decayN2 := 0, decayD := 1 } = true ∧
      Cfg.valid { Reference.cfg with geom := { g with xBits := 32, yBits := 1 }, decayN1 := 1, maWindow := 1 } = true := by decide
theorem test_witness_NothingHappensBetweenTransactions : State.reset.inbox = [] := by decide
theorem test_witness_RegistryLookupIsExact : registryValid Reference.registry = true := by decide
theorem test_witness_IdentSelectsTheDescriptor :
    let s := { State.reset with opnd := { e7 := ⟨0xA1, 0xA2, 0xA3⟩ } }
    registryValid s.cfg.registry = true ∧ (⟨⟨0xA1, 0xA2, 0xA3⟩, 0x8, 0x48, 0x48, []⟩ : RegEntry) ∈ s.cfg.registry ∧
      s.opnd.e7 = ⟨0xA1, 0xA2, 0xA3⟩ ∧ (0x8 : Nibble) = Family.v7.code := by decide
theorem test_witness_IdentOfUnknownSignatureFails : ∀ e ∈ State.reset.cfg.registry, e.sig ≠ State.reset.opnd.e7 := by decide
/-- The hypotheses of the second clause: a host transaction, and a pool whose free fingers' filters are reset. -/
theorem test_witness_StepKeepsTheInvariant_filters :
    (open_ 1 {} { State.reset with inbox := [.reset] }).hostOnly = true ∧
      (open_ 1 {} { State.reset with inbox := [.reset] }).FreeFingersReset := by
  refine ⟨by decide, fun i _ => ?_⟩
  match i with
  | 0 | 1 | 2 | 3 | 4 => exact ⟨⟨by decide, by decide⟩, ⟨by decide, by decide⟩⟩
/-- A consistent state that a step leaves: a group of one packet is open and a RESET is presented. -/
theorem test_witness_StepKeepsTheInvariant :
    (open_ 1 {} { State.reset with inbox := [.reset] }).Consistent ∧
      ∃ t, step (open_ 1 {} { State.reset with inbox := [.reset] }) = .next t := by
  refine ⟨⟨⟨by decide, by decide, by decide⟩, ⟨by decide, by decide, by decide, by decide⟩, fun i => ?_,
    ⟨by decide, by decide, by decide, by decide, by decide⟩, ⟨by decide, by decide, by decide, by decide⟩,
    ⟨by decide, by decide, by decide⟩⟩, _, rfl⟩
  match i with
  | 0 | 1 | 2 | 3 | 4 =>
    exact ⟨by decide, by decide, ⟨by decide, by decide, by decide, by decide, by decide⟩,
      ⟨by decide, by decide, by decide, by decide, by decide⟩⟩
theorem test_witness_NewInstanceMeetsTheInvariant : 1 ≤ Reference.cfg.maWindow ∧ Reference.cfg.maWindow = 1 := by decide
theorem test_witness_HostTransactionsNeverStop :
    State.hostOnly { State.reset with inbox := [.ident ⟨0, 0, 0⟩ ⟨0, 0, 0⟩, .pkt [0], .pkt eight, .reset] } = true ∧
      State.hostOnly { State.reset with inbox := [.pkt []] } = false := by decide
theorem test_witness_ConfigurationIsStatic :
    ∃ t, step { State.reset with inbox := [.reset], refused := true } = .next t := ⟨_, rfl⟩
theorem test_witness_IdentificationIsWrittenByIdentOnly :
    (∃ t, exec .track State.reset = .next t) ∧ Instr.track ≠ .ident ∧ Instr.track ≠ .reset ∧
      (∃ t, exec .reset State.reset = .next t) ∧ Instr.reset ≠ .ident := ⟨⟨_, rfl⟩, by decide, by decide, ⟨_, rfl⟩, by decide⟩
theorem test_witness_ReportChangesOnlyWhenEmitted :
    after (exec .decV7New State.reset) (fun t => t.status.emit) = some false ∧ Instr.decV7New ≠ .ident ∧
      Instr.decV7New ≠ .reset := by decide

/-- The rows of the position statements: the layout's reach is met exactly by a packet of the family's length. -/
theorem test_witness_reach :
    let L := State.reset.cfg.layouts
    [L.v1.reach, L.v2.reach, L.v3.reach, L.v3r.reach, L.v5.reach, L.v6.reach, L.v7.reach, L.v8.reach, L.ss4p.reach] =
        [6, 6, 6, 6, 6, 6, 6, 6, 6] ∧ L.v4.reach = 8 := by decide
theorem test_witness_AbsolutePositionPacket :
    State.reset.cfg.layouts.v1.reach ≤ (holding [] six).opnd.pkt.length ∧
      State.reset.cfg.layouts.v2.reach ≤ (holding [] six).opnd.pkt.length := by decide
theorem test_witness_PinnaclePositionPacket :
    ∀ l ∈ [State.reset.cfg.layouts.v3, State.reset.cfg.layouts.v3r],
      l.reach ≤ (holding [] six).opnd.pkt.length ∧ flag (holding [] six).opnd.pkt l.firstMp = false := by decide
theorem test_witness_DolphinPositionPacket :
    State.reset.cfg.layouts.v5.reach ≤ (holding [] six).opnd.pkt.length ∧
      flag (holding [] six).opnd.pkt State.reset.cfg.layouts.v5.firstMp = false := by decide
theorem test_witness_V6PositionPacket : State.reset.cfg.layouts.v6.reach ≤ (holding [] six).opnd.pkt.length := by decide
theorem test_witness_SS4OneFingerPacket :
    ∀ l ∈ [State.reset.cfg.layouts.v8, State.reset.cfg.layouts.ss4p], l.reach ≤ (holding [] six).opnd.pkt.length := by decide
theorem test_witness_SS4TwoFingerPacket :
    ∀ l ∈ [State.reset.cfg.layouts.v8, State.reset.cfg.layouts.ss4p],
      l.reach ≤ (holding [] six).opnd.pkt.length ∧ flag (holding [] six).opnd.pkt l.cont = false := by decide
theorem test_witness_V7PositionPackets : State.reset.cfg.layouts.v7.reach ≤ (holding [] six).opnd.pkt.length := by decide
/-- A packet that opens a group in each family that has groups; V4's position packet always does. -/
theorem test_witness_OpenerIsStored :
    State.reset.ctx.mpMem.wf ∧ flag [0, 0, 0, 0, 0x40, 0] State.reset.cfg.layouts.v3.firstMp = true ∧
      flag [0, 0, 0, 0, 0x40, 0] State.reset.cfg.layouts.v3r.firstMp = true ∧
      flag [0x02, 0, 0, 0, 0, 0] State.reset.cfg.layouts.v5.firstMp = true ∧
      flag [0, 0, 0x10, 0, 0, 0] State.reset.cfg.layouts.v8.cont = true ∧
      flag [0, 0, 0x10, 0, 0, 0] State.reset.cfg.layouts.ss4p.cont = true ∧
      State.reset.cfg.layouts.v4.reach ≤ eight.length := by decide
theorem test_witness_BitmapGroupEnds :
    let s := open_ 1 {} (holding [] six)
    s.ctx.mpMem.wf ∧ s.ctx.mpOpen = true ∧ s.ctx.mpFill = 1 ∧ s.cfg.layouts.v3.reach ≤ s.opnd.pkt.length ∧
      s.cfg.layouts.v3r.reach ≤ s.opnd.pkt.length ∧ s.cfg.layouts.v5.reach ≤ s.opnd.pkt.length := by decide
theorem test_witness_V4ContinuationIsStored :
    let s := open_ 1 {} (holding [] eight)
    s.ctx.mpMem.wf ∧ s.ctx.mpOpen = true ∧ s.ctx.mpFill < 2 ∧ s.cfg.layouts.v4.reach ≤ s.opnd.pkt.length := by decide
theorem test_witness_V4GroupEnds :
    let s := open_ 2 {} (holding [] eight)
    s.ctx.mpMem.wf ∧ s.ctx.mpOpen = true ∧ s.ctx.mpFill = 2 ∧ s.cfg.layouts.v4.reach ≤ s.opnd.pkt.length ∧
      s.opnd.pkt.length ≤ pktMax := by decide
theorem test_witness_SS4GroupEnds :
    let s := open_ 1 {} (holding [] six)
    s.ctx.mpMem.wf ∧ s.ctx.mpOpen = true ∧ s.ctx.mpFill = 1 ∧ s.cfg.layouts.v8.reach ≤ s.opnd.pkt.length ∧
      s.cfg.layouts.ss4p.reach ≤ s.opnd.pkt.length := by decide
/-- No group open, and the buffer exactly full. -/
theorem test_witness_ContinuationOutOfSequence :
    (holding [] eight).ctx.mpOpen = false ∧ mpCap ≤ (open_ 3 {} (holding [] eight)).ctx.mpFill ∧
      State.reset.cfg.layouts.v4.reach ≤ (holding [] eight).opnd.pkt.length := by decide
theorem test_witness_DroppedPackets :
    .dualpoint ∉ (holding [] six).desc.caps ∧
      State.reset.cfg.layouts.v3.stick.reject.any (passesAll six) = true ∧
      State.reset.cfg.layouts.v3.reach ≤ six.length := by decide
theorem test_witness_TrackstickPackets :
    let s := holding [.dualpoint] [0x40, 0, 0, 0, 0, 0]
    .dualpoint ∈ s.desc.caps ∧
      ∀ l ∈ [s.cfg.layouts.v3.stick, s.cfg.layouts.v3r.stick, s.cfg.layouts.v6.stick, s.cfg.layouts.v7.stick,
        s.cfg.layouts.v8.stick, s.cfg.layouts.ss4p.stick],
        l.reject.any (passesAll s.opnd.pkt) = false ∧ l.reach ≤ s.opnd.pkt.length := by decide
theorem test_witness_RelativeStickPackets :
    ∀ l ∈ [State.reset.cfg.layouts.v1, State.reset.cfg.layouts.v2], l.reach ≤ (holding [] six).opnd.pkt.length := by decide
/-- The three clauses of the contact list, and five positions. -/
theorem test_witness_ContactListOfAFrame :
    (∃ f : Fields, f.npos = 0 ∧ f.fingers = 0) ∧ (∃ f : Fields, f.npos = 0 ∧ 1 ≤ f.fingers) ∧
      (∃ f : Fields, 1 ≤ f.npos ∧ f.npos ≤ 5 ∧ 4 < min f.fingers f.npos) :=
  ⟨⟨{}, by decide⟩, ⟨{ fingers := 1 }, by decide⟩, ⟨{ fingers := 5, npos := 5 }, by decide⟩⟩
/-- No finger; an empty axis; one finger with its lowest position at either end of the axis. -/
theorem test_witness_BitmapOfFewFingers :
    (∀ i, i < 15 → (0x8000 : Nat).testBit i = false) ∧
      ((0x4000 : Nat).testBit 14 = true ∧ ∀ k, k < 14 → (0x4000 : Nat).testBit k = false) ∧ (1 : Nat).testBit 0 = true := by
  decide
theorem test_witness_BitmapPairsTheExtremes :
    (2 : Nat) ≤ 2 ∧ (0x4001 : Nat).testBit 0 = true ∧ (0x4001 : Nat).testBit 14 = true ∧
      (∀ k, k < State.reset.cfg.geom.xBits → (0x4001 : Nat).testBit k = true → 0 ≤ k ∧ k ≤ 14) ∧
      (0x010 : Nat).testBit 4 = true ∧
      (∀ k, k < State.reset.cfg.geom.yBits → (0x010 : Nat).testBit k = true → 4 ≤ k ∧ k ≤ 4) := by decide
theorem test_witness_FateOfEachFinger :
    (pool2 (finger 0 0 0) (VFinger.fresh 1))[(0 : Fin 5)].state = .touching ∧
      (pool2 (finger 0 0 0) (VFinger.fresh 1))[(1 : Fin 5)].state = .free := by decide
theorem test_witness_EveryContactFindsAFinger :
    Reference.cfg.matchMaxDist = none ∧ (List.replicate 5 (⟨0, 0, 0, 0⟩ : Contact)).length ≤ 5 := by decide
theorem test_witness_MatchingTakesTheLeastPair :
    leastCand [⟨1, ⟨0, 0, 0, 0⟩, 4⟩, ⟨0, ⟨0, 0, 0, 0⟩, 4⟩] = some ⟨0, ⟨0, 0, 0, 0⟩, 4⟩ := by decide
theorem test_witness_MovingAverageIsTheMeanOfTheWindow :
    1 ≤ 1 ∧ (MaState.fresh 1).buf.length = 1 ∧ [(7 : Int)] ≠ [] := by decide
theorem test_witness_UndecayInvertsDecay :
    (1 : Int) ≤ 1 ∧ (0 : Int) ≤ 1 ∧ (1 : Int) ≤ 2 ∧ (⟨0, false⟩ : IirState).lastvalid = false ∧ (0 : Int) ≤ 10 ∧ (0 : Int) ≤ 20 ∧
      (2 : Int) ∣ 20 * 1 ∧ (2 : Int) ∣ 10 * 1 := by decide
theorem test_witness_ReservedWordsAreRejected :
    decodeOpsel 0x503 = .ok .maNewest ∧ decodeOpsel 0x504 = .error .filterField ∧ decodeOpsel 0x511 = .ok .decayReset ∧
      decodeOpsel 0x530 = .error .filterField ∧ decodeOpsel 0xFFF = .error .kind := by decide

end Sys2Proof.Tests
end

