-- ==== Sys2Proof/Proofs/Configuration.lean ====
section
/-!
PROOF. The check of a configuration and the written-out constraints agree (00_scope.md R9, 45_filters.md R279,
70_reset_and_hazards.md R321), and an instance whose configuration fails the check refuses what it is presented.
-/

namespace Sys2Proof.Machine

/-! ### What the parts of the check say -/

/-- The list the check runs over leaves no family out. -/
theorem mem_allFamilies (f : Family) : f ∈ allFamilies := by cases f <;> decide

/-- The class codes a classifier can return are its default and those of its lines. -/
theorem classes_all_legal_iff (k : Classifier) (f : Family) :
    k.classes.all (legalClass f) = true ↔
      k.otherwise.toNat ∈ classCodes f ∧ ∀ r ∈ k.rules, r.cls.toNat ∈ classCodes f := by
  simp only [Classifier.classes, List.all_cons, List.all_map, Bool.and_eq_true, List.all_eq_true, Function.comp_apply,
    legalClass_iff]

/-- The check of one family (R51, R70, R80); of V9 only the packet length counts. -/
theorem familyValid_iff (c : Cfg) (f : Family) :
    c.familyValid f = true ↔
      (1 ≤ c.pktLen.get f ∧ c.pktLen.get f ≤ 8) ∧
        (f ≠ .v9 →
          (c.layouts.reach f ≤ c.pktLen.get f ∧ (c.classify.get f).reach ≤ c.pktLen.get f) ∧
            (c.classify.get f).otherwise.toNat ∈ classCodes f ∧
            ∀ r ∈ (c.classify.get f).rules, r.cls.toNat ∈ classCodes f) := by
  simp only [Cfg.familyValid, Bool.and_eq_true, Bool.or_eq_true, decide_eq_true_eq, beq_iff_eq, classes_all_legal_iff,
    ne_eq, or_iff_not_imp_left]

/-- The check of the stick divisors (R12). -/
theorem divisorsValid_iff (l : Layouts) :
    l.divisorsValid = true ↔
      ∀ d ∈ [l.v3.stick, l.v3r.stick, l.v6.stick, l.v7.stick, l.v8.stick, l.ss4p.stick], 1 ≤ d.xDiv ∧ 1 ≤ d.yDiv := by
  simp only [Layouts.divisorsValid, List.all_eq_true, Bool.and_eq_true, decide_eq_true_eq]

/-- The check of V4's bitmap terms (assumption 24). -/
theorem mapValid_iff (l : V4Layout) : l.mapValid = true ↔ l.mapReach ≤ 3 * l.mapBytes.length := decide_eq_true_iff

/-- The check of a configuration part by part: the numbers, REGISTRY, every family, the divisors, the bitmap terms. -/
theorem cfgValid_iff_parts (c : Cfg) :
    c.valid = true ↔
      (1 ≤ c.geom.xBits ∧ c.geom.xBits ≤ 32) ∧ (1 ≤ c.geom.yBits ∧ c.geom.yBits ≤ 32) ∧ 1 ≤ c.maWindow ∧
        1 ≤ c.decayN1 ∧ 0 ≤ c.decayN2 ∧ 1 ≤ c.decayD ∧ registryValid c.registry = true ∧
        (∀ f, c.familyValid f = true) ∧ c.layouts.divisorsValid = true ∧ c.layouts.v4.mapValid = true := by
  simp only [Cfg.valid, Bool.and_eq_true, decide_eq_true_eq, List.all_eq_true, mem_allFamilies, forall_const, and_assoc]

/-- The check passes exactly if the configuration meets its constraints. -/
theorem cfgValid_iff_meetsConstraints (c : Cfg) : c.valid = true ↔ MeetsConstraints c := by
  rw [cfgValid_iff_parts, registryValid_iff, divisorsValid_iff, mapValid_iff]
  simp only [familyValid_iff]
  constructor
  · rintro ⟨xBits, yBits, window, decayN1, decayN2, decayD, ⟨signatures, tags⟩, families, divisors, maps⟩
    exact {
      xBits, yBits, window, decayN1, decayN2, decayD, signatures, tags, divisors, maps
      pktLen := fun f => (families f).1
      reads := fun f hf => ((families f).2 hf).1
      classes := fun f hf => ((families f).2 hf).2 }
  · intro m
    exact ⟨m.xBits, m.yBits, m.window, m.decayN1, m.decayN2, m.decayD, ⟨m.signatures, m.tags⟩,
      fun f => ⟨m.pktLen f, fun hf => ⟨m.reads f hf, m.classes f hf⟩⟩, m.divisors, m.maps⟩

/-! ### The refusal -/

/-- With a configuration that fails the check, the oldest transaction is taken off the port and refused, whichever it is
(R19, R321; assumption 14). -/
theorem fetch_of_invalid {s : State} {x : Txn} {ts : List Txn} (hin : s.inbox = x :: ts) (hv : ¬s.cfg.valid = true) :
    fetch s = .ended (refuse { s with inbox := ts }) := by
  simp only [fetch, hin, if_neg hv]

/-- Settles O11: the check agrees with the constraints part by part, and a transaction fetched under a configuration that fails
it ends in the refusal, before any OPSEL is formed. -/
theorem invalidConfigurationRefuses : Obligations.InvalidConfigurationRefuses := by
  refine ⟨cfgValid_iff_meetsConstraints, fun s x ts hbreach hin => ?_⟩
  have hv : ¬s.cfg.valid = true := mt (cfgValid_iff_meetsConstraints s.cfg).mp hbreach
  exact step_ended (fetch_of_invalid hin hv)

end Sys2Proof.Machine
end

