-- ==== Sys2Proof/Proofs/Invariant.lean ====
section
/-!
PROOF. What an operation can do to the state, said once (`exec_effect`, `exec_cases`), and what follows from it: who writes the
identification and the report, that a new instance meets the invariant (10_state.md, 60_exceptions.md R290) and that every step
keeps it. The invariant goes through a step part by part: a transaction is taken (`fetch_standsStill`), its operation keeps the
context, the fields, the pool, the status and the report consistent (`Effect.consistent`, `ResetEffect.consistent`), and it is
retired.
-/

namespace Sys2Proof.Machine

/-! ### What a decode hands to PROCESS -/

/-- The fields a packet starts with are in range and carry no multi-packet flag (40_dispatch.md R95 step 1). -/
theorem fields_fresh_consistent (cls : Nibble) : Fields.Consistent { Fields.zero with cls := cls } :=
  ⟨Nat.zero_le _, Nat.zero_le _, rfl, rfl⟩

/-- A decode result PROCESS can show: a position is no continuation and opens a group only in a family that has groups
(40_dispatch.md R101, R108); stick fields touch neither counts nor flags. -/
def Decoded.Showable (fam : Family) : Decoded → Prop
  | .pos f _ => f.isMp = false ∧ (f.firstMp = true → hasMp fam = true)
  | .stick f => f.Consistent
  | .cont .. | .idle | .drop | .unknown => True

/-- A decoder whose results PROCESS can show, whatever the state it decodes in, once the packet's fields are fresh. -/
def DecodesShowable (fam : Family) (dec : State → Decoded) : Prop :=
  ∀ s : State, s.fields.Consistent → (dec s).Showable fam

/-- V1 and V2 positions (R133, R135). -/
theorem decodeAbs_showable (fam : Family) (l : AbsLayout) : DecodesShowable fam (decodeAbs l) :=
  fun _ _ => ⟨rfl, nofun⟩

/-- V1 and V2 stick packets (R134, R136). -/
theorem decodeAbsStick_showable (fam : Family) (l : AbsLayout) : DecodesShowable fam (decodeAbsStick l) :=
  fun _ h => ⟨h.fingers_le, h.npos_le, h.not_multi, h.not_first⟩

/-- Stick packets of the later families, decoded or dropped (R137, R146). -/
theorem decodeStick_showable (fam : Family) (l : StickLayout) : DecodesShowable fam (decodeStick l) := by
  intro s h
  unfold decodeStick
  split
  · split
    · trivial
    · exact ⟨h.fingers_le, h.npos_le, h.not_multi, h.not_first⟩
  · trivial

/-- V3 and V3R positions, openers among them (R144, R147). -/
theorem decodePinnacle_showable {fam : Family} (hfam : hasMp fam = true) (l : PinnacleLayout) :
    DecodesShowable fam (decodePinnacle l) :=
  fun _ _ => ⟨rfl, fun _ => hfam⟩

/-- V3 and V3R continuations (R145, R148). -/
theorem decodePinnacleMap_showable (fam : Family) (l : PinnacleLayout) : DecodesShowable fam (decodePinnacleMap l) :=
  fun _ _ => trivial

/-- V4 openers (R152). -/
theorem decodeV4Sync_showable {fam : Family} (hfam : hasMp fam = true) (l : V4Layout) :
    DecodesShowable fam (decodeV4Sync l) :=
  fun _ _ => ⟨rfl, fun _ => hfam⟩

/-- V4 continuations (R153). -/
theorem decodeV4Cont_showable (fam : Family) (l : V4Layout) : DecodesShowable fam (decodeV4Cont l) :=
  fun _ _ => trivial

/-- V5 positions, openers among them (R161). -/
theorem decodeDolphin_showable {fam : Family} (hfam : hasMp fam = true) (l : DolphinLayout) :
    DecodesShowable fam (decodeDolphin l) :=
  fun _ _ => ⟨rfl, fun _ => hfam⟩

/-- V5 continuations (R162). -/
theorem decodeDolphinMap_showable (fam : Family) (l : DolphinLayout) : DecodesShowable fam (decodeDolphinMap l) :=
  fun _ _ => trivial

/-- V6 positions leave the multi-packet flags as they were (R171). -/
theorem decodeV6_showable (fam : Family) (l : V6Layout) : DecodesShowable fam (decodeV6 l) :=
  fun _ h => ⟨h.not_multi, fun e => absurd (h.not_first.symm.trans e) (by decide)⟩

/-- V7 TWO packets (R186). -/
theorem decodeV7Two_showable (fam : Family) (l : V7Layout) : DecodesShowable fam (decodeV7Two l) :=
  fun _ _ => ⟨rfl, nofun⟩

/-- V7 MULTI packets (R187). -/
theorem decodeV7Multi_showable (fam : Family) (l : V7Layout) : DecodesShowable fam (decodeV7Multi l) :=
  fun _ _ => ⟨rfl, nofun⟩

/-- V8 and SS4P ONE packets (R201, R211). -/
theorem decodeSS4One_showable (fam : Family) (l : SS4Layout) : DecodesShowable fam (decodeSS4One l) :=
  fun _ _ => ⟨rfl, nofun⟩

/-- V8 and SS4P TWO packets, openers among them (R202, R212). -/
theorem decodeSS4Two_showable {fam : Family} (hfam : hasMp fam = true) (l : SS4Layout) :
    DecodesShowable fam (decodeSS4Two l) :=
  fun _ _ => ⟨rfl, fun _ => hfam⟩

/-- V8 and SS4P MULTI packets (R203, R213). -/
theorem decodeSS4Multi_showable (fam : Family) (l : SS4Layout) : DecodesShowable fam (decodeSS4Multi l) :=
  fun _ _ => trivial

/-! ### What a filter operation does -/

/-- The eight filter operations, those of KIND 5 (30_encoding.md R75). -/
def isFilterOp : Instr → Bool
  | .maFilter | .maReset | .maOldest | .maNewest | .decayFilter | .decayReset | .undecayFilter | .undecayReset => true
  | _ => false

/-- Writing an instance is what R278 says of it. -/
theorem filterSet_setInst (s : State) (i : Inst) (f : Filter) : FilterSet i f s (setInst s i f) where
  this := by rw [getInst_setInst, if_pos rfl]
  others := fun j hj => by rw [getInst_setInst, if_neg hj]
  fingers := setInst_finger s i f

/-- Reading an instance leaves it as it is. -/
theorem filterSet_refl (s : State) (i : Inst) : FilterSet i (getInst s i) s s :=
  ⟨rfl, fun _ _ => rfl, fun _ => ⟨rfl, rfl, rfl, rfl, rfl, rfl⟩⟩

/-- The value an operation returns stands in no filter. -/
theorem getInst_returnValue (v : Int) (s : State) (i : Inst) : getInst (returnValue v s) i = getInst s i := by
  cases i <;> rfl

/-- Returning a value does nothing to the filters. -/
theorem FilterSet.returnValue {i : Inst} {f : Filter} {s t : State} (h : FilterSet i f s t) (v : Int) :
    FilterSet i f s (returnValue v t) where
  this := (getInst_returnValue v t i).trans h.this
  others := fun j hj => (getInst_returnValue v t j).trans (h.others j hj)
  fingers := h.fingers

/-- Writing an instance leaves the rest of the state alone. -/
theorem keepsAllButFilters_setInst (s : State) (i : Inst) (f : Filter) : KeepsAllButFilters s (setInst s i f) := by
  constructor <;> simp

/-- Returning a value leaves the rest of the state alone. -/
theorem KeepsAllButFilters.returnValue {s t : State} (h : KeepsAllButFilters s t) (v : Int) :
    KeepsAllButFilters s (returnValue v t) :=
  ⟨h.cfg, h.inbox, h.opnd, h.devState, h.desc, h.ctx, h.fields, h.status, h.report, h.refused⟩

/-- Doing nothing leaves the rest of the state alone. -/
theorem keepsAllButFilters_refl (s : State) : KeepsAllButFilters s s := by constructor <;> rfl

/-- A filter operation writes the instance its operand names, keeping a consistent window consistent, and nothing else but the
value it returns (45_filters.md R270 to R278). -/
structure FilterEffect (s t : State) (i : Inst) (f : Filter) : Prop where
  set : FilterSet i f s t
  keeps : KeepsAllButFilters s t
  window : (getInst s i).ma.Consistent s.cfg.maWindow → f.ma.Consistent s.cfg.maWindow

/-- Writing an instance. -/
theorem filterEffect_setInst {s : State} {i : Inst} {f : Filter}
    (h : (getInst s i).ma.Consistent s.cfg.maWindow → f.ma.Consistent s.cfg.maWindow) :
    FilterEffect s (setInst s i f) i f :=
  ⟨filterSet_setInst s i f, keepsAllButFilters_setInst s i f, h⟩

/-- Reading an instance. -/
theorem filterEffect_refl (s : State) (i : Inst) : FilterEffect s s i (getInst s i) :=
  ⟨filterSet_refl s i, keepsAllButFilters_refl s, id⟩

/-- Returning a value afterwards. -/
theorem FilterEffect.returnValue {s t : State} {i : Inst} {f : Filter} (h : FilterEffect s t i f) (v : Int) :
    FilterEffect s (returnValue v t) i f :=
  ⟨h.set.returnValue v, h.keeps.returnValue v, h.window⟩

/-! ### What an operation can do -/

/-- What an operation other than IDENT and RESET can leave, `t` from `s`. -/
inductive Effect (s : State) : Instr → State → Prop
  /-- A packet operation: PROCESS of its decode result (40_dispatch.md R95). -/
  | packet {i : Instr} (fam : Family) (cls : PacketClass) (r : Decoded) (hr : r.Showable fam) :
      Effect s i (process fam r (beginPacket cls s))
  /-- DEC.V9: the refusal (41_decoders_v1_v6.md R178). -/
  | refusal {i : Instr} : Effect s i (refuse (freshFields s))
  /-- BITMAP: a new pairing state, and the positions returned (43_bitmap.md R220). -/
  | bitmap {i : Instr} (xm ym n : Nat) (r : Ret) : Effect s i { s with ctx := (bitmapAt s xm ym n).2, ret := r }
  /-- TRACK (44_tracker.md R240). -/
  | track {i : Instr} (ks : List Contact) (b : Bool) : Effect s i (track ks b s)
  /-- A filter operation (45_filters.md). -/
  | filter {i : Instr} {t : State} (hi : isFilterOp i = true) (j : Inst) (f : Filter) (h : FilterEffect s t j f) :
      Effect s i t

/-- A packet operation that reads packet bytes and answers a next state. -/
theorem effect_of_runDecoder {i : Instr} {fam : Family} {cls : PacketClass} {dec : State → Decoded} {s t : State}
    (hd : DecodesShowable fam dec) (h : runDecoder fam cls dec s = .next t) : Effect s i t := by
  rw [runDecoder_eq_next h]
  exact .packet fam cls _ (hd _ (fields_fresh_consistent cls.code))

/-- A packet operation that reads no packet byte. -/
theorem effect_of_runClass {i : Instr} {fam : Family} {cls : PacketClass} {r : Decoded} {s t : State}
    (h : runClass fam cls r s = .next t) (hr : r.Showable fam) : Effect s i t := by
  cases h
  exact .packet fam cls r hr

/-- A filter operation that answers t. -/
theorem effect_of_filter {i : Instr} (hi : isFilterOp i = true) {s t u : State} (h : (.next u : Out) = .next t)
    {j : Inst} {f : Filter} (hu : FilterEffect s u j f) : Effect s i t := by
  cases h
  exact .filter hi j f hu

/-- What each operation but IDENT and RESET does, decoder by decoder. -/
theorem exec_effect {i : Instr} {s t : State} (h : exec i s = .next t) (hi : i ≠ .ident) (hr : i ≠ .reset) :
    Effect s i t := by
  cases i with
  | ident => exact absurd rfl hi
  | reset => exact absurd rfl hr
  | decV1One | decV2One => exact effect_of_runDecoder (decodeAbs_showable _ _) h
  | decV1Stick | decV2Stick => exact effect_of_runDecoder (decodeAbsStick_showable _ _) h
  | decV3One | decV3rOne => exact effect_of_runDecoder (decodePinnacle_showable rfl _) h
  | decV3Multi | decV3rMulti => exact effect_of_runDecoder (decodePinnacleMap_showable _ _) h
  | decV3Stick | decV3rStick | decV6Stick | decV7Stick | decV8Stick | decSs4pStick =>
    exact effect_of_runDecoder (decodeStick_showable _ _) h
  | decV4One => exact effect_of_runDecoder (decodeV4Sync_showable rfl _) h
  | decV4Multi => exact effect_of_runDecoder (decodeV4Cont_showable _ _) h
  | decV5One => exact effect_of_runDecoder (decodeDolphin_showable rfl _) h
  | decV5Multi => exact effect_of_runDecoder (decodeDolphinMap_showable _ _) h
  | decV6One => exact effect_of_runDecoder (decodeV6_showable _ _) h
  | decV7Two => exact effect_of_runDecoder (decodeV7Two_showable _ _) h
  | decV7Multi => exact effect_of_runDecoder (decodeV7Multi_showable _ _) h
  | decV8One | decSs4pOne => exact effect_of_runDecoder (decodeSS4One_showable _ _) h
  | decV8Two | decSs4pTwo => exact effect_of_runDecoder (decodeSS4Two_showable rfl _) h
  | decV8Multi | decSs4pMulti => exact effect_of_runDecoder (decodeSS4Multi_showable _ _) h
  | decV7Idle | decV8Idle | decSs4pIdle | decV7New | decV7Unknown | decV8Unknown | decSs4pUnknown =>
    exact effect_of_runClass h trivial
  | decV9 cls => cases h; exact .refusal
  | bitmap => cases h; exact .bitmap _ _ _ _
  | track => cases h; exact .track _ _
  | maFilter => exact effect_of_filter rfl h ((filterEffect_setInst fun w => w.push _).returnValue _)
  | maReset => exact effect_of_filter rfl h (filterEffect_setInst fun w => w.clear)
  | maOldest | maNewest => exact effect_of_filter rfl h ((filterEffect_refl s s.opnd.inst).returnValue _)
  | decayFilter | undecayFilter => exact effect_of_filter rfl h ((filterEffect_setInst (by exact id)).returnValue _)
  | decayReset | undecayReset => exact effect_of_filter rfl h (filterEffect_setInst id)

/-! ### Who writes the identification -/

/-- BITMAP leaves everything of the context but the pairing state (43_bitmap.md R220). -/
theorem bitmapAt_ctx_kept (s : State) (xm ym n : Nat) :
    (bitmapAt s xm ym n).2.fwVersion = s.ctx.fwVersion ∧ (bitmapAt s xm ym n).2.mpMem = s.ctx.mpMem ∧
      (bitmapAt s xm ym n).2.mpFill = s.ctx.mpFill ∧ (bitmapAt s xm ym n).2.mpOpen = s.ctx.mpOpen := by
  rw [bitmapAt, bitmapOf_ctx]
  exact ⟨rfl, rfl, rfl, rfl⟩

/-- No operation but IDENT and RESET writes the descriptor, the device state or the firmware version. -/
theorem Effect.keeps_identification {s t : State} {i : Instr} (h : Effect s i t) :
    t.desc = s.desc ∧ t.devState = s.devState ∧ t.ctx.fwVersion = s.ctx.fwVersion := by
  cases h with
  | packet fam cls r _ => exact ⟨by simp, by simp, by simp [process_fwVersion]⟩
  | refusal => exact ⟨rfl, rfl, rfl⟩
  | bitmap xm ym n r => exact ⟨rfl, rfl, (bitmapAt_ctx_kept s xm ym n).1⟩
  | track ks b => exact ⟨rfl, rfl, rfl⟩
  | filter _ j f h => exact ⟨h.keeps.desc, h.keeps.devState, congrArg Ctx.fwVersion h.keeps.ctx⟩

/-- Settles O22: RESET leaves the descriptor, every other operation but IDENT leaves all three. -/
theorem identificationIsWrittenByIdentOnly : Obligations.IdentificationIsWrittenByIdentOnly := by
  intro i s t h hi
  by_cases hr : i = .reset
  · subst hr
    cases h
    exact ⟨rfl, fun hn => absurd rfl hn⟩
  · obtain ⟨hdesc, hdev, hfw⟩ := (exec_effect h hi hr).keeps_identification
    exact ⟨hdesc, fun _ => ⟨hdev, hfw⟩⟩

/-! ### When the report changes -/

/-- A continuation emits a report or leaves it. -/
theorem processCont_report (fam : Family) (f : Fields) (term : Bool) (m : Merge) (s : State) :
    (processCont fam f term m s).status.emit = true ∨ (processCont fam f term m s).report = s.report := by
  unfold processCont
  split
  · unfold processStored
    dsimp only
    split
    · exact .inl (frame_emit ..)
    · exact .inr rfl
  · exact .inr rfl

/-- A position emits a report unless it opens a group, which leaves it. -/
theorem processPos_report (fam : Family) (f : Fields) (w : Option Bool) (s : State) :
    (processPos fam f w s).status.emit = true ∨ (processPos fam f w s).report = s.report := by
  cases hf : f.firstMp && hasMp fam with
  | false =>
    obtain ⟨x, hx, -⟩ := processPos_frame fam f w (s := s) hf
    rw [hx]
    exact .inl (frame_emit ..)
  | true => cases w <;> exact .inr (by simp [processPos, hf])

/-- An idle packet emits a report or leaves it (R102). -/
theorem processIdle_report (fam : Family) (s : State) :
    (processIdle fam s).status.emit = true ∨ (processIdle fam s).report = s.report := by
  unfold processIdle
  dsimp only
  split
  · exact .inr rfl
  · exact .inl rfl

/-- PROCESS emits a report or leaves it (10_state.md R40). -/
theorem process_report (fam : Family) (r : Decoded) (s : State) :
    (process fam r s).status.emit = true ∨ (process fam r s).report = s.report := by
  rw [← abandon_report s]
  cases r with
  | pos f w => exact processPos_report fam f w (abandon s)
  | cont f term m => rw [abandon_report]; exact processCont_report fam f term m s
  | idle => exact processIdle_report fam (abandon s)
  | drop => exact .inr rfl
  | stick f => exact .inl rfl
  | unknown => exact processIdle_report fam (ctxReset (abandon s))

/-- Settles O23: of the operations but the resets only PROCESS writes the report, and it emits what it writes. -/
theorem reportChangesOnlyWhenEmitted : Obligations.ReportChangesOnlyWhenEmitted := by
  intro i s t h hi hr hemit
  cases exec_effect h hi hr with
  | packet fam cls r _ =>
    exact (process_report fam r (beginPacket cls s)).resolve_left (by simp [hemit])
  | refusal => rfl
  | bitmap xm ym n r => rfl
  | track ks b => rfl
  | filter _ j f h => exact h.keeps.report

/-! ### A new instance -/

/-- A filter instance at creation is in reset state (10_state.md R38). -/
theorem filterFresh_isReset (c : Cfg) (n : Nat) : FilterIsReset c (Filter.fresh n) :=
  ⟨fun _ => ⟨rfl, rfl, rfl⟩, fun _ => rfl⟩

/-- A finger at creation is as reset leaves it (10_state.md R36). -/
theorem fingerFresh_isReset (c : Cfg) (n : Nat) : FingerIsReset c (VFinger.fresh n) :=
  ⟨rfl, rfl, rfl, rfl, rfl, rfl, filterFresh_isReset c n, filterFresh_isReset c n⟩

/-- A finger at creation is consistent, once the window has an entry. -/
theorem fingerFresh_consistent {c : Cfg} (h : 1 ≤ c.maWindow) : (VFinger.fresh c.maWindow).Consistent c where
  free_zero := fun _ => ⟨rfl, rfl, rfl, rfl, rfl⟩
  miss_le := nofun
  fx := MaState.fresh_consistent h
  fy := MaState.fresh_consistent h

/-- The pool of a new instance holds fresh fingers only. -/
theorem create_finger (c : Cfg) (i : Fin 5) : (State.create c).vf[i] = VFinger.fresh c.maWindow := by simp [State.create]

/-- Settles O17: the fingers are fresh ones, and every other value is the one `State.create` names. -/
theorem creationValues : Obligations.CreationValues := by
  intro c
  have fingers : ∀ i : Fin 5, FingerIsReset c (State.create c).vf[i] := fun i => by
    rw [create_finger]
    exact fingerFresh_isReset c c.maWindow
  exact ⟨rfl, rfl, rfl, ⟨rfl, rfl⟩, rfl, rfl, rfl, rfl, fingers, rfl, rfl, rfl⟩

/-! ### The context -/

/-- The multi-packet invariant looks at the memory, the fill count and the open bit only. -/
theorem Ctx.Consistent.of_same {x y : Ctx} (h : x.Consistent) (hm : y.mpMem = x.mpMem) (hf : y.mpFill = x.mpFill)
    (ho : y.mpOpen = x.mpOpen) : y.Consistent :=
  ⟨hm ▸ h.memory, hf ▸ h.fill_le, by rw [ho, hf]; exact h.open_iff⟩

/-- A context whose group was closed (40_dispatch.md R100, R105), whatever was open. -/
theorem ctx_consistent_of_closed {x : Ctx} (hm : x.mpMem.wf) (hf : x.mpFill = 0) (ho : x.mpOpen = false) : x.Consistent :=
  ⟨hm, by omega, by simp [hf, ho]⟩

/-- An opener becomes the only packet of an open group (40_dispatch.md R101). -/
theorem Ctx.Consistent.opener {x : Ctx} (h : x.Consistent) (p : List Byte) (f : Fields) :
    Ctx.Consistent { ({ x with mpFill := 0 } : Ctx).store p f with mpOpen := true } :=
  ⟨Ctx.store_wf (c := { x with mpFill := 0 }) h.memory p f, by simp [Ctx.store, mpCap], by simp [Ctx.store]⟩

/-- A continuation joins an open group that has room (40_dispatch.md R105). -/
theorem Ctx.Consistent.store {x : Ctx} (h : x.Consistent) (ho : x.mpOpen = true) (hr : x.mpFill < mpCap) (p : List Byte)
    (f : Fields) : (x.store p f).Consistent :=
  ⟨Ctx.store_wf h.memory p f, hr, by simp [Ctx.store, ho]⟩

/-! ### The status and the report -/

/-- The status a transaction starts with. -/
theorem status_silent_consistent : Status.silent.Consistent :=
  ⟨by decide, by decide, by decide, by decide⟩

/-- The status of a refusal (00_scope.md R19). -/
theorem status_refused_consistent : Status.Consistent ⟨.refused, 0, false, false⟩ :=
  ⟨by decide, by decide, by decide, by decide⟩

/-- The status of an emitted report (40_dispatch.md R110). -/
theorem status_frame_consistent : Status.Consistent ⟨.frame, 0, false, true⟩ :=
  ⟨by decide, by decide, by decide, by decide⟩

/-- The status of a frame with a contact or finger too many (60_exceptions.md R301). -/
theorem status_full_consistent : Status.Consistent ⟨.error, 5, true, true⟩ :=
  ⟨by decide, by decide, by decide, by decide⟩

/-- The error codes are 1 to 5, and 5 is CapacityExceeded alone (60_exceptions.md R290). -/
theorem errorCode_range (e : ErrorKind) : e.code.toNat ≤ 5 ∧ e.code ≠ 0 ∧ (e.code = 5 → e = .capacityExceeded) := by
  cases e <;> decide

/-- An error other than CapacityExceeded may end a transaction with any capacity and emit bits (60_exceptions.md R290). -/
theorem status_error_consistent {e : ErrorKind} (he : e ≠ .capacityExceeded) (cap emit : Bool) :
    Status.Consistent ⟨.error, e.code, cap, emit⟩ := by
  obtain ⟨range, nonzero, full⟩ := errorCode_range e
  exact ⟨range, iff_of_true rfl nonzero, nofun, fun h => absurd (full h) he⟩

/-- Setting the capacity bit keeps a status consistent (44_tracker.md R247). -/
theorem Status.Consistent.orCap {u : Status} (h : u.Consistent) (b : Bool) :
    Status.Consistent { u with cap := u.cap || b } where
  code_le := h.code_le
  error_iff := h.error_iff
  frame_emits := h.frame_emits
  full_emits := fun e => by simp [h.full_emits e]

/-- The touches of a pool stand in ascending tag order. -/
theorem reportedTouches_ascending (pool : Pool) : ((reportedTouches pool).map Touch.id).Pairwise (· < ·) := by
  have tags : (tagsIn pool .touching).Pairwise (· < ·) := List.Pairwise.filter _ (by decide)
  rw [reportedTouches, List.map_map, List.pairwise_map]
  exact tags.imp id

/-- Every touch of a pool carries a tag of the pool. -/
theorem reportedTouches_tags (pool : Pool) : ∀ t ∈ reportedTouches pool, t.id < maxTouches ∧ t.touch = true := by
  intro t ht
  obtain ⟨i, -, rfl⟩ := List.mem_map.1 ht
  exact ⟨i.isLt, rfl⟩

/-- A report that lists the touches of a pool and at most MAX_TOUCHES fingers is consistent (40_dispatch.md R120). -/
theorem report_consistent_of {r : Report} {pool : Pool} (ht : r.touches = reportedTouches pool)
    (hf : r.fingers ≤ maxTouches) : r.Consistent :=
  ⟨ht ▸ reportedTouches_ascending pool, ht ▸ reportedTouches_tags pool, hf⟩

/-- The empty report is consistent. -/
theorem report_empty_consistent : Report.empty.Consistent :=
  ⟨.nil, nofun, Nat.zero_le _⟩

/-! ### The instance at creation -/

/-- A new instance whose window has an entry meets the invariant. -/
theorem create_consistent {c : Cfg} (h : 1 ≤ c.maWindow) : (State.create c).Consistent where
  ctx := ctx_consistent_of_closed Memory.wf_nil rfl rfl
  fields := fields_fresh_consistent 0
  pool := fun i => by
    rw [create_finger]
    exact fingerFresh_consistent h
  bench := MaState.fresh_consistent h
  status := status_silent_consistent
  report := report_empty_consistent

/-- The fingers of a new instance are free, their filters reset. -/
theorem create_freeFingersReset (c : Cfg) : (State.create c).FreeFingersReset := fun i _ => by
  rw [create_finger]
  exact ⟨filterFresh_isReset c c.maWindow, filterFresh_isReset c c.maWindow⟩

/-- Settles O19: both parts hold of any instance as created, and the reference configuration has a window of 1. -/
theorem newInstanceMeetsTheInvariant : Obligations.NewInstanceMeetsTheInvariant :=
  ⟨fun c h => ⟨create_consistent h, create_freeFingersReset c⟩, create_consistent (by decide),
    create_freeFingersReset Reference.cfg⟩

/-! ### What TRACK does to one finger -/

/-- What TRACK can do to a finger: a Touching one is bound to a contact or ages, a free one is allocated or stays
(44_tracker.md R240). -/
inductive Tracked (c : Cfg) (b : Bool) (v : VFinger) : VFinger → Prop
  | bound (h : v.state = .touching) (k : Contact) : Tracked c b v (bindFinger c v k b)
  | aged (h : v.state = .touching) : Tracked c b v (ageFinger c v)
  | allocated (k : Contact) : Tracked c b v (allocFinger c v k b)
  | still (h : v.state = .free) : Tracked c b v v

/-- An unmatched finger that is Free after ageing was released in this frame, so no contact can take it (R246, R248). -/
theorem aged_free_is_released {c : Cfg} {pool : Pool} {uv : List (Fin 5)} {i : Fin 5} (hi : i ∈ uv)
    (ht : pool[i].state = .touching) (hf : (ageFinger c pool[i]).state = .free) : i ∈ releasedBy c pool uv := by
  rcases ageFinger_state c pool[i] with ⟨hm, -⟩ | ⟨-, e⟩
  · exact mem_releasedBy.2 ⟨hi, hm⟩
  · rw [e] at hf
    exact absurd (ht.symm.trans hf) (by decide)

/-- TRACK does one of the four things to every finger. -/
theorem trackPool_tracked (c : Cfg) (ks : List Contact) (b : Bool) (pool : Pool) (i : Fin 5) :
    Tracked c b pool[i] (trackPool c ks b pool).1[i] := by
  have M := matchLoop_matched c b ks.length ⟨pool, touchingTags pool, ks⟩ (nodup_touchingTags pool)
  unfold trackPool
  dsimp only
  generalize matchLoop c b ks.length ⟨pool, touchingTags pool, ks⟩ = m at M ⊢
  have hage := agePool_get c m.uv M.nodup m.pool i
  have halloc := allocLoop_get c b (releasedBy c m.pool m.uv) (sortBySlot m.uc) (agePool c m.uv m.pool, false) i
  dsimp only at halloc
  cases hs : pool[i].state with
  | touching =>
    by_cases hu : i ∈ m.uv
    · rw [if_pos hu] at hage
      have hold : m.pool[i] = pool[i] := M.unmatched i hu
      rcases halloc with h | ⟨hfree, hrel, -⟩
      · rw [h, hage, hold]
        exact .aged hs
      · rw [hage] at hfree
        exact absurd (aged_free_is_released hu (by rw [hold, hs]) hfree) hrel
    · rw [if_neg hu] at hage
      obtain ⟨k, -, hk⟩ := M.matched i (mem_touchingTags.2 hs) hu
      rcases halloc with h | ⟨hfree, -, -⟩
      · rw [h, hage, hk]
        exact .bound hs k
      · rw [hage, hk, bindFinger_state] at hfree
        exact absurd (hs.symm.trans hfree) (by decide)
  | free =>
    have hnot : i ∉ touchingTags pool := fun h => absurd (hs.symm.trans (mem_touchingTags.1 h)) (by decide)
    rw [if_neg fun h => hnot (M.still i h), M.outside i hnot] at hage
    rcases halloc with h | ⟨-, -, k, -, h⟩
    · rw [h, hage]
      exact .still hs
    · rw [h, hage]
      exact .allocated k

/-- TRACK keeps the finger invariant. -/
theorem Tracked.consistent {c : Cfg} {b : Bool} {v w : VFinger} (h : Tracked c b v w) (hv : v.Consistent c) :
    w.Consistent c := by
  cases h with
  | bound h k => exact bindFinger_consistent hv.fx hv.fy h k b
  | aged h => exact ageFinger_consistent hv h
  | allocated k => exact allocFinger_consistent hv k b
  | still _ => exact hv

/-- The tracker's FILTER_RESET leaves an instance in reset state (R249). -/
theorem filterReset_isReset (c : Cfg) (f : Filter) : FilterIsReset c (filterReset c f) where
  average := fun h => by rw [(filterReset_resets c f).average h]; exact ⟨rfl, rfl, rfl⟩
  decay := fun h => by rw [(filterReset_resets c f).decay h]

/-- A finger that TRACK leaves free has reset filters: it was just released, or was free before (R249). -/
theorem Tracked.freeReset {c : Cfg} {b : Bool} {v w : VFinger} (h : Tracked c b v w)
    (hv : v.state = .free → FilterIsReset c v.fx ∧ FilterIsReset c v.fy) (hw : w.state = .free) :
    FilterIsReset c w.fx ∧ FilterIsReset c w.fy := by
  cases h with
  | bound h k => exact absurd (h.symm.trans hw) (by decide)
  | aged h =>
    rcases ageFinger_state c v with ⟨-, e⟩ | ⟨-, e⟩
    · rw [e]
      exact ⟨filterReset_isReset c v.fx, filterReset_isReset c v.fy⟩
    · rw [e] at hw
      exact absurd (h.symm.trans hw) (by decide)
  | allocated k => exact absurd hw (by rw [allocFinger_state]; decide)
  | still _ => exact hv hw

/-! ### What stands while a transaction is taken, refused or retired -/

/-- The configuration, the context, the pool, the free filter instance and the report stand; S.fields and S.status stand or
take values that keep their invariants. -/
structure StandsStill (s t : State) : Prop where
  cfg : t.cfg = s.cfg
  ctx : t.ctx = s.ctx
  vf : t.vf = s.vf
  bench : t.bench = s.bench
  report : t.report = s.report
  fields : s.fields.Consistent → t.fields.Consistent
  status : s.status.Consistent → t.status.Consistent

/-- Such a change keeps the invariant. -/
theorem StandsStill.consistent {s t : State} (k : StandsStill s t) (h : s.Consistent) : t.Consistent where
  ctx := k.ctx ▸ h.ctx
  fields := k.fields h.fields
  pool := by rw [k.vf, k.cfg]; exact h.pool
  bench := by rw [k.bench, k.cfg]; exact h.bench
  status := k.status h.status
  report := k.report ▸ h.report

/-- Whether free fingers' filters are reset is a matter of the pool and the configuration. -/
theorem State.FreeFingersReset.of_same {s t : State} (h : s.FreeFingersReset) (hv : t.vf = s.vf) (hc : t.cfg = s.cfg) :
    t.FreeFingersReset := by
  unfold State.FreeFingersReset
  rw [hv, hc]
  exact h

/-- Retiring drops the operands (60_exceptions.md R295). -/
theorem standsStill_retired (s : State) : StandsStill s { s with opnd := Operands.none } :=
  ⟨rfl, rfl, rfl, rfl, rfl, id, id⟩

/-- A refusal (00_scope.md R19), the operands dropped. -/
theorem standsStill_refused (s : State) : StandsStill s { refuse s with opnd := Operands.none } :=
  ⟨rfl, rfl, rfl, rfl, rfl, id, fun _ => status_refused_consistent⟩

/-- The refusal of a V9 packet (41_decoders_v1_v6.md R178). -/
theorem standsStill_refusedFresh (s : State) : StandsStill s (refuse (freshFields s)) :=
  ⟨rfl, rfl, rfl, rfl, rfl, fun _ => fields_fresh_consistent 0, fun _ => status_refused_consistent⟩

/-- The state in which taking a transaction ends or runs its operation. -/
def Fetched.state : Fetched → State
  | .ended s => s
  | .run _ s => s

/-- A packet rejected before its decode (40_dispatch.md R95 steps 1 to 4). -/
theorem standsStill_rejected (s : State) {e : ErrorKind} (he : e ≠ .capacityExceeded) :
    StandsStill s (raiseError e (freshFields s)) :=
  ⟨rfl, rfl, rfl, rfl, rfl, fun _ => fields_fresh_consistent 0, fun _ => status_error_consistent he _ _⟩

/-- A packet taken off the port. -/
theorem fetchPkt_standsStill (p : List Byte) (s : State) : StandsStill s (fetchPkt p s).state := by
  have fresh : StandsStill s { freshFields s with opnd := { Operands.none with pkt := p } } :=
    ⟨rfl, rfl, rfl, rfl, rfl, fun _ => fields_fresh_consistent 0, fun _ => status_silent_consistent⟩
  unfold fetchPkt
  dsimp only
  split
  · exact standsStill_rejected s (by decide)
  · split
    · exact standsStill_rejected s (by decide)
    · split
      · exact standsStill_rejected s (by decide)
      · split
        · exact fresh
        · exact fresh

/-- A transaction taken off the port. -/
theorem fetch_standsStill (s : State) : StandsStill s (fetch s).state := by
  unfold fetch
  split
  · exact ⟨rfl, rfl, rfl, rfl, rfl, id, id⟩
  · next x ts _ =>
    split
    · cases x with
      | pkt p =>
        obtain ⟨cfg, ctx, vf, bench, report, fields, status⟩ := fetchPkt_standsStill p { s with inbox := ts }
        exact ⟨cfg, ctx, vf, bench, report, fields, status⟩
      | ident e7 ec => exact ⟨rfl, rfl, rfl, rfl, rfl, id, id⟩
      | reset => exact ⟨rfl, rfl, rfl, rfl, rfl, id, id⟩
      | seq w o => exact ⟨rfl, rfl, rfl, rfl, rfl, id, id⟩
    · exact ⟨rfl, rfl, rfl, rfl, rfl, id, fun _ => status_refused_consistent⟩

/-! ### The operations the packets share -/

/-- A packet begins on a consistent state (40_dispatch.md R95 step 1). -/
theorem beginPacket_consistent {s : State} (h : s.Consistent) (cls : PacketClass) : (beginPacket cls s).Consistent :=
  ⟨h.ctx, fields_fresh_consistent cls.code, h.pool, h.bench, status_silent_consistent, h.report⟩

/-- Writing the context keeps the invariant if it keeps the context's part. -/
theorem State.Consistent.withCtx {s : State} (h : s.Consistent) {x : Ctx} (hx : x.Consistent) :
    State.Consistent { s with ctx := x } :=
  ⟨hx, h.fields, h.pool, h.bench, h.status, h.report⟩

/-- Abandoning a group (40_dispatch.md R100). -/
theorem abandon_consistent {s : State} (h : s.Consistent) : (abandon s).Consistent := by
  cases ho : s.ctx.mpOpen with
  | false => rw [abandon_of_closed s ho]; exact h
  | true => rw [abandon_of_open s ho]; exact h.withCtx (ctx_consistent_of_closed h.ctx.memory rfl rfl)

/-- The context reset (10_state.md R31). -/
theorem ctxReset_consistent {s : State} (h : s.Consistent) : (ctxReset s).Consistent :=
  h.withCtx (ctx_consistent_of_closed h.ctx.memory rfl rfl)

/-- Ending with an error other than CapacityExceeded (60_exceptions.md R304). -/
theorem raiseError_consistent {s : State} (h : s.Consistent) {e : ErrorKind} (he : e ≠ .capacityExceeded) :
    (raiseError e s).Consistent :=
  ⟨h.ctx, h.fields, h.pool, h.bench, status_error_consistent he _ _, h.report⟩

/-- TRACK keeps every finger of a consistent pool consistent. -/
theorem trackPool_consistent {s : State} (h : s.Consistent) (ks : List Contact) (b : Bool) (i : Fin 5) :
    (trackPool s.cfg ks b s.vf).1[i].Consistent s.cfg :=
  (trackPool_tracked s.cfg ks b s.vf i).consistent (h.pool i)

/-- TRACK keeps the invariant, whatever its contacts (44_tracker.md R240). -/
theorem track_consistent {s : State} (h : s.Consistent) (ks : List Contact) (b : Bool) : (track ks b s).Consistent :=
  ⟨h.ctx, h.fields, trackPool_consistent h ks b, h.bench, h.status.orCap _, h.report⟩

/-- The button gate leaves the multi-packet flags (40_dispatch.md R113). -/
theorem gateTs_flags (d : Descriptor) (f : Fields) : (gateTs d f).isMp = f.isMp ∧ (gateTs d f).firstMp = f.firstMp := by
  unfold gateTs
  split <;> exact ⟨rfl, rfl⟩

/-- The fields a frame writes are clamped (40_dispatch.md R110), and those of a packet outside any group carry no flag. -/
theorem frameFields_consistent (s : State) {f : Fields} (hm : f.isMp = false) (hf : f.firstMp = false) :
    (frameFields s f).Consistent := by
  obtain ⟨gm, gf⟩ := gateTs_flags s.desc f
  exact ⟨min_le_right _ _, min_le_right _ _, gm.trans hm, gf.trans hf⟩

/-- FRAME keeps the invariant (40_dispatch.md R110). -/
theorem frame_consistent (fam : Family) {f : Fields} {s : State} (h : s.Consistent) (hs : s.status = Status.silent)
    (hm : f.isMp = false) (hf : f.firstMp = false) : (frame fam f s).Consistent := by
  have shows := frame_shows fam f hs
  have fields := frameFields_consistent s hm hf
  exact {
    ctx := by rw [frame_ctx]; exact h.ctx
    fields := by rw [shows.fields]; exact fields
    pool := by rw [shows.pool, frame_cfg]; exact trackPool_consistent h _ _
    bench := by rw [frame_bench, frame_cfg]; exact h.bench
    status := by
      rw [shows.status]
      split
      · exact status_full_consistent
      · exact status_frame_consistent
    report := report_consistent_of shows.touches (by rw [shows.fingers]; exact fields.fingers_le) }

/-- An idle packet keeps the invariant, whether or not it is reported (40_dispatch.md R102). -/
theorem processIdle_consistent (fam : Family) {s : State} (h : s.Consistent) (hs : s.status = Status.silent) {cls : Nibble}
    (hf : s.fields = { Fields.zero with cls := cls }) : (processIdle fam s).Consistent := by
  have shows := processIdle_shows fam hs hf
  exact {
    ctx := by rw [processIdle_ctx]; exact h.ctx
    fields := by rw [shows.fields]; exact fields_fresh_consistent cls
    pool := by rw [processIdle_vf, processIdle_cfg]; exact trackPool_consistent h _ _
    bench := by rw [processIdle_bench, processIdle_cfg]; exact h.bench
    status := by
      rw [shows.status]
      cases s.cfg.idleReport with
      | suppress => exact status_silent_consistent
      | emit => exact status_frame_consistent
    report := by
      cases hi : s.cfg.idleReport with
      | suppress => rw [shows.suppressed hi]; exact h.report
      | emit => rw [shows.emitted hi]; exact report_consistent_of rfl (Nat.zero_le _) }

/-- A stick packet keeps the invariant (40_dispatch.md R111). -/
theorem processStick_consistent (fam : Family) {f : Fields} {s : State} (h : s.Consistent) (hs : s.status = Status.silent)
    (hf : f.Consistent) : (processStick fam f s).Consistent := by
  have shows := processStick_shows fam f hs
  exact {
    ctx := h.ctx
    fields := by rw [shows.fields]; exact ⟨hf.fingers_le, hf.npos_le, hf.not_multi, hf.not_first⟩
    pool := by rw [shows.pool, processStick_cfg]; exact h.pool
    bench := by rw [processStick_bench, processStick_cfg]; exact h.bench
    status := by rw [shows.status]; exact status_frame_consistent
    report := report_consistent_of shows.touches (by rw [shows.fingers]; exact hf.fingers_le) }

/-- A position keeps the invariant: it opens a group of its one packet, or is shown as a frame (40_dispatch.md R101). -/
theorem processPos_consistent {fam : Family} {f : Fields} (w : Option Bool) {s : State} (h : s.Consistent)
    (hs : s.status = Status.silent) (hm : f.isMp = false) (hf : f.firstMp = true → hasMp fam = true) :
    (processPos fam f w s).Consistent := by
  have withFin (v : Bool) : Ctx.Consistent { s.ctx with prevFin := v } := h.ctx.of_same rfl rfl rfl
  cases hop : f.firstMp && hasMp fam with
  | false =>
    have hfirst : f.firstMp = false := by
      cases e : f.firstMp with
      | false => rfl
      | true => simp [e, hf e] at hop
    obtain ⟨x, hx, rfl⟩ := processPos_frame fam f w (s := s) hop
    rw [hx]
    exact frame_consistent fam (h.withCtx (withFin _)) hs hm hfirst
  | true =>
    cases w with
    | none =>
      rw [processPos_opener fam f s hop]
      exact h.withCtx (h.ctx.opener _ _)
    | some v =>
      rw [processPos, if_pos hop]
      exact h.withCtx ((withFin v).opener _ _)

/-- A continuation keeps the invariant: it is out of sequence, joins the open group, or ends it in a merged frame
(40_dispatch.md R105 to R107). -/
theorem processCont_consistent (fam : Family) (f : Fields) (term : Bool) (m : Merge) {s : State} (h : s.Consistent)
    (hs : s.status = Status.silent) : (processCont fam f term m s).Consistent := by
  by_cases hin : s.ctx.mpOpen = true ∧ s.ctx.mpFill < mpCap
  · obtain ⟨ho, hr⟩ := hin
    have stored : State.Consistent { s with ctx := s.ctx.store s.opnd.pkt f } := h.withCtx (h.ctx.store ho hr _ _)
    rw [processCont_stored ho hr, processStored]
    cases term with
    | false => exact stored
    | true =>
      obtain ⟨first, multi⟩ := mergeGroup_flags m { s with ctx := s.ctx.store s.opnd.pkt f }
      have memory : (mergeGroup m { s with ctx := s.ctx.store s.opnd.pkt f }).2.mpMem.wf := by
        rw [mergeGroup_ctx]
        exact stored.ctx.memory
      exact frame_consistent fam (stored.withCtx (ctx_consistent_of_closed memory rfl rfl)) hs multi first
  · rw [processCont_out (by
      cases ho : s.ctx.mpOpen with
      | false => exact .inl rfl
      | true => exact .inr (Nat.le_of_not_lt fun hr => hin ⟨ho, hr⟩))]
    exact raiseError_consistent (ctxReset_consistent h) (by decide)

/-- PROCESS of a packet that has just begun keeps the invariant. -/
theorem process_consistent {fam : Family} {r : Decoded} (cls : PacketClass) {s : State} (h : s.Consistent)
    (hr : r.Showable fam) : (process fam r (beginPacket cls s)).Consistent := by
  have begun := beginPacket_consistent h cls
  have abandoned := abandon_consistent begun
  have silent : (abandon (beginPacket cls s)).status = Status.silent := by simp
  have fresh : (abandon (beginPacket cls s)).fields = { Fields.zero with cls := cls.code } := by simp
  cases r with
  | pos f w =>
    obtain ⟨hm, hf⟩ := hr
    exact processPos_consistent w abandoned silent hm hf
  | cont f term m => exact processCont_consistent fam f term m begun rfl
  | idle => exact processIdle_consistent fam abandoned silent fresh
  | drop => exact abandoned
  | stick f => exact processStick_consistent fam abandoned silent hr
  | unknown =>
    exact raiseError_consistent (processIdle_consistent fam (ctxReset_consistent abandoned) silent fresh) (by decide)

/-! ### The operations -/

/-- Every filter instance of a consistent state has a consistent window. -/
theorem getInst_consistent {s : State} (h : s.Consistent) (i : Inst) : (getInst s i).ma.Consistent s.cfg.maWindow := by
  cases i with
  | bench => exact h.bench
  | fx k => exact (h.pool k).fx
  | fy k => exact (h.pool k).fy

/-- A filter operation keeps every window consistent (45_filters.md R278). -/
theorem FilterEffect.window_kept {s t : State} {i : Inst} {f : Filter} (e : FilterEffect s t i f) (h : s.Consistent)
    (j : Inst) : (getInst t j).ma.Consistent s.cfg.maWindow := by
  by_cases hj : j = i
  · rw [hj, e.set.this]
    exact e.window (getInst_consistent h i)
  · rw [e.set.others j hj]
    exact getInst_consistent h j

/-- A filter operation keeps the invariant. -/
theorem FilterEffect.consistent {s t : State} {i : Inst} {f : Filter} (e : FilterEffect s t i f) (h : s.Consistent) :
    t.Consistent where
  ctx := e.keeps.ctx ▸ h.ctx
  fields := e.keeps.fields ▸ h.fields
  pool := fun k => by
    obtain ⟨state, x, y, z, button, miss⟩ := e.set.fingers k
    rw [e.keeps.cfg]
    exact {
      free_zero := by rw [state, x, y, z, button, miss]; exact (h.pool k).free_zero
      miss_le := by rw [state, miss]; exact (h.pool k).miss_le
      fx := e.window_kept h (.fx k)
      fy := e.window_kept h (.fy k) }
  bench := by rw [e.keeps.cfg]; exact e.window_kept h .bench
  status := e.keeps.status ▸ h.status
  report := e.keeps.report ▸ h.report

/-- Every operation but IDENT and RESET keeps the invariant. -/
theorem Effect.consistent {s t : State} {i : Instr} (e : Effect s i t) (h : s.Consistent) : t.Consistent := by
  cases e with
  | packet fam cls r hr => exact process_consistent cls h hr
  | refusal => exact (standsStill_refusedFresh s).consistent h
  | bitmap xm ym n r =>
    obtain ⟨-, memory, fill, isOpen⟩ := bitmapAt_ctx_kept s xm ym n
    exact ⟨h.ctx.of_same memory fill isOpen, h.fields, h.pool, h.bench, h.status, h.report⟩
  | track ks b => exact track_consistent h ks b
  | filter _ j f e => exact e.consistent h

/-- PROCESS steps the tracker or leaves the pool. -/
theorem process_pool (fam : Family) (r : Decoded) (s : State) :
    (process fam r s).vf = s.vf ∨ ∃ ks b, (process fam r s).vf = (trackPool s.cfg ks b s.vf).1 := by
  rw [← abandon_vf s, ← abandon_cfg s]
  cases r with
  | pos f w =>
    cases hop : f.firstMp && hasMp fam with
    | false =>
      obtain ⟨x, hx, -⟩ := processPos_frame fam f w (s := abandon s) hop
      exact .inr ⟨_, _, (congrArg State.vf hx).trans (frame_vf ..)⟩
    | true => cases w <;> exact .inl (by simp [process, processPos, hop])
  | cont f term m =>
    rw [abandon_vf, abandon_cfg, process]
    unfold processCont
    split
    · unfold processStored
      cases term with
      | true => exact .inr ⟨_, _, frame_vf ..⟩
      | false => exact .inl rfl
    · exact .inl rfl
  | idle => exact .inr ⟨_, _, processIdle_vf ..⟩
  | drop => exact .inl rfl
  | stick f => exact .inl rfl
  | unknown => exact .inr ⟨_, _, processIdle_vf fam (ctxReset (abandon s))⟩

/-- A step of the tracker leaves the filters of free fingers reset (44_tracker.md R249). -/
theorem State.FreeFingersReset.tracked {s t : State} (h : s.FreeFingersReset) (hc : t.cfg = s.cfg) {ks : List Contact}
    {b : Bool} (hv : t.vf = (trackPool s.cfg ks b s.vf).1) : t.FreeFingersReset := by
  intro i hi
  rw [hv] at hi ⊢
  rw [hc]
  exact (trackPool_tracked s.cfg ks b s.vf i).freeReset (h i) hi

/-- Every operation but IDENT, RESET and the filter operations leaves the filters of free fingers reset. -/
theorem Effect.freeFingersReset {s t : State} {i : Instr} (e : Effect s i t) (hi : isFilterOp i = false)
    (h : s.FreeFingersReset) : t.FreeFingersReset := by
  cases e with
  | packet fam cls r _ =>
    rcases process_pool fam r (beginPacket cls s) with hv | ⟨ks, b, hv⟩
    · exact h.of_same hv (process_cfg ..)
    · exact h.tracked (process_cfg ..) hv
  | refusal => exact h.of_same rfl rfl
  | bitmap xm ym n r => exact h.of_same rfl rfl
  | track ks b => exact h.tracked (track_cfg ..) (track_vf ..)
  | filter hf j f _ => exact absurd (hf.symm.trans hi) (by decide)

/-! ### IDENT and RESET -/

/-- What RESET_ALL leaves of the parts the invariant speaks of (70_reset_and_hazards.md R320). -/
structure ResetEffect (s t : State) : Prop where
  cfg : t.cfg = s.cfg
  memory : t.ctx.mpMem = s.ctx.mpMem
  fill : t.ctx.mpFill = 0
  notOpen : t.ctx.mpOpen = false
  fields : t.fields = Fields.zero
  vf : t.vf = (resetAll s).vf
  bench : t.bench = s.bench.clear
  status : t.status.Consistent
  report : t.report = Report.empty

/-- IDENT resets everything, whether the signature is known, unknown or of a reserved family. -/
theorem execIdent_effect {s t : State} (h : execIdent s = .next t) : ResetEffect s t := by
  unfold execIdent at h
  dsimp only at h
  split at h
  · cases h
    exact ⟨rfl, rfl, rfl, rfl, rfl, rfl, rfl, status_error_consistent (e := .unsupportedSignature) (by decide) _ _, rfl⟩
  · split at h
    · cases h
      exact ⟨rfl, rfl, rfl, rfl, rfl, rfl, rfl, status_refused_consistent, rfl⟩
    · cases h
      exact ⟨rfl, rfl, rfl, rfl, rfl, rfl, rfl, status_silent_consistent, rfl⟩

/-- RESET resets everything. -/
theorem execReset_effect {s t : State} (h : execReset s = .next t) : ResetEffect s t := by
  cases h
  exact ⟨rfl, rfl, rfl, rfl, rfl, rfl, rfl, status_silent_consistent, rfl⟩

/-- A finger that RESET clears is consistent. -/
theorem VFinger.Consistent.clear {c : Cfg} {v : VFinger} (h : v.Consistent c) : v.clear.Consistent c where
  free_zero := fun _ => ⟨rfl, rfl, rfl, rfl, rfl⟩
  miss_le := nofun
  fx := h.fx.clear
  fy := h.fy.clear

/-- Every finger after RESET_ALL is the one before, cleared. -/
theorem ResetEffect.finger {s t : State} (e : ResetEffect s t) (i : Fin 5) : t.vf[i] = (s.vf[i]).clear := by
  rw [e.vf]
  exact resetAll_vf s i i.isLt

/-- The resets keep the invariant. -/
theorem ResetEffect.consistent {s t : State} (e : ResetEffect s t) (h : s.Consistent) : t.Consistent where
  ctx := ctx_consistent_of_closed (e.memory ▸ h.ctx.memory) e.fill e.notOpen
  fields := by rw [e.fields]; exact fields_fresh_consistent 0
  pool := fun i => by rw [e.finger i, e.cfg]; exact (h.pool i).clear
  bench := by rw [e.bench, e.cfg]; exact h.bench.clear
  status := e.status
  report := by rw [e.report]; exact report_empty_consistent

/-- A cleared filter instance is in reset state, whatever its kind (10_state.md R38). -/
theorem filterClear_isReset (c : Cfg) (f : Filter) : FilterIsReset c f.clear :=
  ⟨fun _ => ⟨rfl, rfl, rfl⟩, fun _ => rfl⟩

/-- The resets leave every finger's filters reset. -/
theorem ResetEffect.freeFingersReset {s t : State} (e : ResetEffect s t) : t.FreeFingersReset := fun i _ => by
  rw [e.finger i]
  exact ⟨filterClear_isReset _ _, filterClear_isReset _ _⟩

/-! ### Every operation, every step -/

/-- An operation resets everything or has one of the other effects. -/
theorem exec_cases {i : Instr} {s t : State} (h : exec i s = .next t) : ResetEffect s t ∨ Effect s i t := by
  by_cases hi : i = .ident
  · subst hi; exact .inl (execIdent_effect h)
  · by_cases hr : i = .reset
    · subst hr; exact .inl (execReset_effect h)
    · exact .inr (exec_effect h hi hr)

/-- Every operation keeps the invariant. -/
theorem exec_consistent {i : Instr} {s t : State} (h : s.Consistent) (he : exec i s = .next t) : t.Consistent :=
  (exec_cases he).elim (·.consistent h) (·.consistent h)

/-- Every operation but the filter operations leaves the filters of free fingers reset. -/
theorem exec_freeFingersReset {i : Instr} {s t : State} (h : s.FreeFingersReset) (hi : isFilterOp i = false)
    (he : exec i s = .next t) : t.FreeFingersReset :=
  (exec_cases he).elim (·.freeFingersReset) (·.freeFingersReset hi h)

/-- Every step keeps the invariant: taking the transaction, its operation or refusal, and retiring it. -/
theorem step_consistent {s t : State} (h : s.Consistent) (hstep : step s = .next t) : t.Consistent := by
  have taken := (fetch_standsStill s).consistent h
  rcases step_cases hstep with hf | ⟨w, u, hf, hop | hreserved⟩
  · rw [hf] at taken
    exact taken
  · obtain ⟨i, v, -, he, rfl⟩ := hop
    rw [hf] at taken
    exact (standsStill_retired v).consistent (exec_consistent taken he)
  · obtain ⟨r, -, rfl⟩ := hreserved
    rw [hf] at taken
    exact (standsStill_refused u).consistent taken

/-! ### Which words the host's transactions form -/

/-- No packet operation is a filter operation. -/
theorem packetInstr_not_filter {f : Family} {k : PacketClass} {i : Instr} (h : packetInstr f k = some i) :
    isFilterOp i = false := by
  cases f <;> cases k <;> cases h <;> rfl

/-- A word that selects at most operation j, which is no filter operation, selects no filter operation. -/
theorem guarded_not_filter {p : Prop} [Decidable p] {r : Reserved} {i j : Instr}
    (h : (if p then .ok j else .error r : Except Reserved Instr) = .ok i) (hj : isFilterOp j = false) :
    isFilterOp i = false := by
  split at h
  · cases h; exact hj
  · cases h

/-- Only the words of KIND 5 select filter operations (30_encoding.md R72, R75). -/
theorem decodeOpsel_not_filter {w : Opsel} {i : Instr} (hk : (opselKind w).toNat ≠ 5) (h : decodeOpsel w = .ok i) :
    isFilterOp i = false := by
  unfold decodeOpsel at h
  dsimp only at h
  split at h
  · split at h
    · cases h
    · split at h
      · cases h
      · split at h
        · cases h
        · next hp => cases h; exact packetInstr_not_filter hp
  · exact guarded_not_filter h rfl
  · exact guarded_not_filter h rfl
  · exact guarded_not_filter h rfl
  · exact guarded_not_filter h rfl
  · next kind5 => exact absurd kind5 hk
  · cases h

/-- The kind field of a packet operation's word is 0 (R72). -/
theorem opselKind_packetOpsel (f : Family) (c : Nibble) : opselKind (packetOpsel f c) = 0 := by
  cases f <;> revert c <;> decide

/-- A packet's word is of KIND 0 (40_dispatch.md R95 step 7). -/
theorem fetchPkt_kind {p : List Byte} {s u : State} {w : Opsel} (h : fetchPkt p s = .run w u) : opselKind w = 0 := by
  unfold fetchPkt at h
  dsimp only at h
  split at h
  · cases h
  · split at h
    · cases h
    · split at h
      · cases h
      · split at h <;> cases h <;> exact opselKind_packetOpsel _ _

/-- The transactions the host presents form words of KIND 0, 1 and 2, so none of KIND 5 (30_encoding.md R70, R72). -/
theorem fetch_host_kind {s u : State} {w : Opsel} (hs : s.hostOnly = true) (h : fetch s = .run w u) :
    (opselKind w).toNat ≠ 5 := by
  unfold fetch at h
  split at h
  · cases h
  · next x ts hin =>
    have host : x.fromHost = true := by
      rw [State.hostOnly, hin, List.all_cons, Bool.and_eq_true] at hs
      obtain ⟨first, -⟩ := hs
      exact first
    split at h
    · cases x with
      | pkt p => rw [fetchPkt_kind h]; decide
      | ident e7 ec => cases h; decide
      | reset => cases h; decide
      | seq v o => cases host
    · cases h

/-- While the host presents only its own transactions, a step leaves the filters of free fingers reset. -/
theorem step_freeFingersReset {s t : State} (hs : s.hostOnly = true) (h : s.FreeFingersReset) (hstep : step s = .next t) :
    t.FreeFingersReset := by
  have still := fetch_standsStill s
  have taken : (fetch s).state.FreeFingersReset := h.of_same still.vf still.cfg
  rcases step_cases hstep with hf | ⟨w, u, hf, hop | hreserved⟩
  · rw [hf] at taken
    exact taken
  · obtain ⟨i, v, hd, he, rfl⟩ := hop
    rw [hf] at taken
    exact (exec_freeFingersReset taken (decodeOpsel_not_filter (fetch_host_kind hs hf) hd) he).of_same rfl rfl
  · obtain ⟨r, -, rfl⟩ := hreserved
    rw [hf] at taken
    exact taken.of_same rfl rfl

/-- Settles O18: every step keeps the invariant, and one the host's transactions can cause keeps free fingers' filters
reset. -/
theorem stepKeepsTheInvariant : Obligations.StepKeepsTheInvariant :=
  fun _ _ h hstep => ⟨step_consistent h hstep, fun hs hreset => step_freeFingersReset hs hreset hstep⟩

end Sys2Proof.Machine
end

