-- ==== Sys2Proof/Proofs/ShortPackets.lean ====
section
/-!
PROOF. The operations that read packet bytes run their own family's decoder, and stop when the packet is shorter than the reach of
that family's layout (20_memory.md R51, assumption 18).
-/

namespace Sys2Proof.Machine

/-- The classes whose operations read packet bytes; IDLE, NEW and UNKNOWN read none (40_dispatch.md R102, R109;
42_decoders_v7_ss4.md R188). -/
def readingClasses : List PacketClass := [.one, .two, .multi, .stick]

/-- An operation with its family reads packet bytes: the table lists it under a class that does (30_encoding.md R79), and the
family is not V9, whose packets are refused unread (41_decoders_v1_v6.md R178). -/
def readsBytes (op : Instr × Family) : Bool :=
  op.2 != .v9 && readingClasses.any fun cls => packetInstr op.2 cls == some op.1

/-- What it is to read bytes, by the operation table. -/
theorem readsBytes_iff (i : Instr) (fam : Family) :
    readsBytes (i, fam) = true ↔ fam ≠ .v9 ∧ ∃ cls ∈ readingClasses, packetInstr fam cls = some i := by
  simp only [readsBytes, Bool.and_eq_true, bne_iff_ne, List.any_eq_true, beq_iff_eq]

/-- A table operation of a reading class runs a decoder under its own family and class. -/
theorem exec_packetInstr_runDecoder {fam : Family} {cls : PacketClass} {i : Instr} (hi : packetInstr fam cls = some i)
    (hfam : fam ≠ .v9) (hcls : cls ∈ readingClasses) (s : State) : ∃ dec, exec i s = runDecoder fam cls dec s := by
  cases cls with
  | idle | new | unknown => exact absurd hcls (by decide)
  | one | two | multi | stick =>
    cases fam with
    | v9 => exact absurd rfl hfam
    | v1 | v2 | v3 | v3r | v4 | v5 | v6 | v7 | v8 | ss4p => cases hi <;> exact ⟨_, rfl⟩

/-- A decoder given fewer bytes than its family's layout reads stops, whatever it would have decoded. -/
theorem runDecoder_short {fam : Family} {cls : PacketClass} {dec : State → Decoded} {s : State}
    (h : s.opnd.pkt.length < s.cfg.layouts.reach fam) : runDecoder fam cls dec s = .fault .pktAddress := by
  rw [runDecoder, if_pos h]

/-- An operation that reads bytes stops on a packet shorter than its family's layout reads. -/
theorem exec_short {i : Instr} {fam : Family} {s : State} (hi : readsBytes (i, fam) = true)
    (h : s.opnd.pkt.length < s.cfg.layouts.reach fam) : exec i s = .fault .pktAddress := by
  obtain ⟨hfam, cls, hcls, hop⟩ := (readsBytes_iff i fam).mp hi
  obtain ⟨dec, hexec⟩ := exec_packetInstr_runDecoder hop hfam hcls s
  rw [hexec, runDecoder_short h]

/-- Settles O10: every operation listed reads bytes of its family's packets, so it stops on a short one. -/
theorem shortPacketsFault : Obligations.ShortPacketsFault := by
  intro s i fam hmem hshort
  have reads : readsBytes (i, fam) = true := List.all_eq_true.mp (by decide) (i, fam) hmem
  exact exec_short reads hshort

end Sys2Proof.Machine
end

