-- ==== Sys2Proof/Proofs/Encoding.lean ====
section
/-!
PROOF. The decoder and the encoder are inverse on the words and the operations of R79, every other word is reserved, and a step is
the operation its word decodes to (30_encoding.md R70 to R80). The rows of the opcode table are said once, by the fields of a word
(`IsRow`); the decoder reads rows only, the encoder writes the word of a row's operation, and what it writes decodes to the
operation, so the three agree.
-/

namespace Sys2Proof.Machine

/-! ### The fields of a word -/

/-- A word is its three fields (R72). -/
theorem mkOpsel_fields (w : Opsel) : mkOpsel (opselKind w) (opselA w) (opselB w) = w := by
  unfold mkOpsel opselKind opselA opselB
  rw [BitVec.extractLsb'_append_extractLsb'_eq_extractLsb' (by decide),
    BitVec.extractLsb'_append_extractLsb'_eq_extractLsb' (by decide)]
  exact BitVec.extractLsb'_eq_self

/-- KIND stands in bits 11 to 8 (R72). -/
theorem opselKind_toNat (w : Opsel) : (opselKind w).toNat = w.toNat / 256 := by
  have bits : (opselKind w).toNat = w.toNat / 256 % 16 := by simp [opselKind, Nat.shiftRight_eq_div_pow]
  omega

/-- A stands in bits 7 to 4 (R72). -/
theorem opselA_toNat (w : Opsel) : (opselA w).toNat = w.toNat / 16 % 16 := by simp [opselA, Nat.shiftRight_eq_div_pow]

/-- B stands in bits 3 to 0 (R72). -/
theorem opselB_toNat (w : Opsel) : (opselB w).toNat = w.toNat % 16 := by simp [opselB]

/-- The numbers of a word's fields give the word's. -/
theorem opsel_toNat (w : Opsel) :
    w.toNat = 256 * (opselKind w).toNat + 16 * (opselA w).toNat + (opselB w).toNat := by
  rw [opselKind_toNat, opselA_toNat, opselB_toNat]
  omega

/-! ### The rows of the table -/

/-- Which family a code names (R73). -/
theorem family_ofCode_eq_some_iff {c : Nibble} {f : Family} : Family.ofCode c = some f ↔ f.code = c := by
  cases f <;> revert c <;> decide

/-- Which class a code names (R74). -/
theorem packetClass_ofCode_eq_some_iff {c : Nibble} {k : PacketClass} : PacketClass.ofCode c = some k ↔ k.code = c := by
  cases k <;> revert c <;> decide

/-- The rows of R79 outside KIND 0: the fields KIND, A and B of the word, and the operation. -/
def plainRows : List ((Nat × Nat × Nat) × Instr) :=
  [((1, 0, 0), .ident), ((2, 0, 0), .reset), ((3, 0, 0), .bitmap), ((4, 0, 0), .track), ((5, 0, 0), .maFilter),
   ((5, 0, 1), .maReset), ((5, 0, 2), .maOldest), ((5, 0, 3), .maNewest), ((5, 1, 0), .decayFilter), ((5, 1, 1), .decayReset),
   ((5, 2, 0), .undecayFilter), ((5, 2, 1), .undecayReset)]

/-- The table of R79 has a row with fields KIND, A and B for an operation: a packet operation under KIND 0, or one of
`plainRows`. -/
inductive IsRow : Nat → Nat → Nat → Instr → Prop where
  | packet {f : Family} {k : PacketClass} {i : Instr} (h : packetInstr f k = some i) :
      IsRow 0 f.code.toNat k.code.toNat i
  | plain {kind a b : Nat} {i : Instr} (h : ((kind, a, b), i) ∈ plainRows) : IsRow kind a b i

/-- An operation of KIND 1 to 4, decoded where A and B are 0, has a row. -/
theorem isRow_of_guarded {kind : Nat} {a b : Nibble} {i j : Instr} (row : ((kind, 0, 0), j) ∈ plainRows)
    (h : (if a = 0 ∧ b = 0 then .ok j else .error .operandField : Except Reserved Instr) = .ok i) :
    IsRow kind a.toNat b.toNat i := by
  split at h
  · next zero => obtain ⟨rfl, rfl⟩ := zero; cases h; exact .plain row
  · cases h

/-- The decoder reads rows of the table only. -/
theorem isRow_of_decodeOpsel {w : Opsel} {i : Instr} (h : decodeOpsel w = .ok i) :
    IsRow (opselKind w).toNat (opselA w).toNat (opselB w).toNat i := by
  unfold decodeOpsel at h
  dsimp only at h
  generalize (opselKind w).toNat = kind at h ⊢
  -- The cases in the decoder's order: KIND 0, KIND 1 to 4, KIND 5, the reserved kinds.
  split at h
  case h_1 =>
    split at h
    · cases h
    · next f hf =>
      split at h
      · cases h
      · next k hk =>
        split at h
        · cases h
        · next j hj =>
          cases h
          rw [← family_ofCode_eq_some_iff.mp hf, ← packetClass_ofCode_eq_some_iff.mp hk]
          exact .packet hj
  case h_2 | h_3 | h_4 | h_5 => exact isRow_of_guarded (by decide) h
  case h_6 => split at h <;> cases h <;> simp only [*] <;> exact .plain (by decide)
  case h_7 => cases h

/-- A packet operation is well-formed, and its word's fields are 0, its family's code and its class's (R79). -/
theorem encode_packetInstr {f : Family} {k : PacketClass} {i : Instr} (h : packetInstr f k = some i) :
    i.wellFormed = true ∧ (encode i).toNat = 16 * f.code.toNat + k.code.toNat := by
  cases f <;> cases k <;> cases h <;> decide

/-- The operations of the other rows are well-formed, and their words have the rows' fields. -/
theorem encode_plainRows :
    ∀ row ∈ plainRows,
      row.2.wellFormed = true ∧ (encode row.2).toNat = 256 * row.1.1 + 16 * row.1.2.1 + row.1.2.2 := by
  decide

/-- The operation of a word's row is well-formed, and the word is its word. -/
theorem encode_of_isRow {w : Opsel} {i : Instr} (h : IsRow (opselKind w).toNat (opselA w).toNat (opselB w).toNat i) :
    i.wellFormed = true ∧ encode i = w := by
  have row {kind a b : Nat} (h : IsRow kind a b i) :
      i.wellFormed = true ∧ (encode i).toNat = 256 * kind + 16 * a + b := by
    cases h with
    | packet h => simpa using encode_packetInstr h
    | plain h => exact encode_plainRows _ h
  obtain ⟨wf, number⟩ := row h
  exact ⟨wf, BitVec.eq_of_toNat_eq (number.trans (opsel_toNat w).symm)⟩

open Laws in
/-- The lemmas of the table's rows together: the word of every operation decodes to it. -/
theorem roundTrip : ∀ i, RoundTrip.Statement i
  | .ident => RoundTrip.ident | .reset => RoundTrip.reset
  | .decV1One => RoundTrip.decV1One | .decV1Stick => RoundTrip.decV1Stick
  | .decV2One => RoundTrip.decV2One | .decV2Stick => RoundTrip.decV2Stick
  | .decV3One => RoundTrip.decV3One | .decV3Multi => RoundTrip.decV3Multi | .decV3Stick => RoundTrip.decV3Stick
  | .decV3rOne => RoundTrip.decV3rOne | .decV3rMulti => RoundTrip.decV3rMulti | .decV3rStick => RoundTrip.decV3rStick
  | .decV4One => RoundTrip.decV4One | .decV4Multi => RoundTrip.decV4Multi
  | .decV5One => RoundTrip.decV5One | .decV5Multi => RoundTrip.decV5Multi
  | .decV6One => RoundTrip.decV6One | .decV6Stick => RoundTrip.decV6Stick
  | .decV7Idle => RoundTrip.decV7Idle | .decV7Two => RoundTrip.decV7Two | .decV7Multi => RoundTrip.decV7Multi
  | .decV7New => RoundTrip.decV7New | .decV7Stick => RoundTrip.decV7Stick | .decV7Unknown => RoundTrip.decV7Unknown
  | .decV8Idle => RoundTrip.decV8Idle | .decV8One => RoundTrip.decV8One | .decV8Two => RoundTrip.decV8Two
  | .decV8Multi => RoundTrip.decV8Multi | .decV8Stick => RoundTrip.decV8Stick | .decV8Unknown => RoundTrip.decV8Unknown
  | .decSs4pIdle => RoundTrip.decSs4pIdle | .decSs4pOne => RoundTrip.decSs4pOne | .decSs4pTwo => RoundTrip.decSs4pTwo
  | .decSs4pMulti => RoundTrip.decSs4pMulti | .decSs4pStick => RoundTrip.decSs4pStick
  | .decSs4pUnknown => RoundTrip.decSs4pUnknown
  | .decV9 cls => RoundTrip.decV9 cls
  | .bitmap => RoundTrip.bitmap | .track => RoundTrip.track
  | .maFilter => RoundTrip.maFilter | .maReset => RoundTrip.maReset
  | .maOldest => RoundTrip.maOldest | .maNewest => RoundTrip.maNewest
  | .decayFilter => RoundTrip.decayFilter | .decayReset => RoundTrip.decayReset
  | .undecayFilter => RoundTrip.undecayFilter | .undecayReset => RoundTrip.undecayReset

/-- Settles O2: the decoder reads rows, the operation of a word's row has that word, and every operation's word decodes to it. -/
theorem everyWordHasOneMeaning : Obligations.EveryWordHasOneMeaning := by
  intro w i
  constructor
  · exact fun h => encode_of_isRow (isRow_of_decodeOpsel h)
  · rintro ⟨wf, rfl⟩
    exact roundTrip i wf

/-- Settles O4: each word is its operation's. -/
theorem wordsOfTheTableDecode : Obligations.WordsOfTheTableDecode := by
  have reads {w : Opsel} {i : Instr} (h : i.wellFormed = true ∧ encode i = w) : decodeOpsel w = .ok i :=
    (everyWordHasOneMeaning w i).mpr h
  exact ⟨reads (by decide), reads (by decide), reads (by decide), reads (by decide), reads (by decide), reads (by decide),
    reads (by decide), reads (by decide), reads (by decide), reads (by decide), reads (by decide), reads (by decide)⟩

/-! ### Words as bytes and as numbers -/

/-- A word's low and high byte decode as the word does, whatever follows them (assumption 20). -/
theorem decodeBytes_word (w : Opsel) (rest : List Byte) :
    decodeBytes (w.setWidth 8 :: (w >>> 8).setWidth 8 :: rest) = decodeOpsel w := by
  have high : ((w >>> 8).setWidth 8).toNat < 16 := by
    simp [Nat.shiftRight_eq_div_pow]
    omega
  have kind : ((w >>> 8).setWidth 8).setWidth 4 = opselKind w := by ext i hi; simp [opselKind]
  have a : (w.setWidth 8 >>> 4).setWidth 4 = opselA w := by ext i hi; simp [opselA]; omega
  have b : (w.setWidth 8).setWidth 4 = opselB w := by ext i hi; simp [opselB]
  rw [decodeBytes, if_pos high, kind, a, b, mkOpsel_fields]

/-- A word's number, at any bit count that holds a word, decodes as the word does. -/
theorem decodeTableWord_toNat {nbits : Nat} (hn : 12 ≤ nbits) {w : Opsel} {i : Instr} (h : decodeOpsel w = .ok i) :
    decodeTableWord nbits w.toNat = some i := by
  have fits : w.toNat % 2 ^ nbits = w.toNat :=
    Nat.mod_eq_of_lt (w.isLt.trans_le (Nat.pow_le_pow_right (by decide) hn))
  have low : BitVec.ofNat 8 w.toNat = w.setWidth 8 := rfl
  have high : BitVec.ofNat 8 (w.toNat / 2 ^ 8) = (w >>> 8).setWidth 8 := by
    apply BitVec.eq_of_toNat_eq
    simp [Nat.shiftRight_eq_div_pow]
  have small : w.toNat < 2 ^ 16 := by omega
  simp only [decodeTableWord, fits, low, high, decodeBytes_word, h, if_pos small]

/-- Settles O1: both readings of an operation's word are the word's own, which decodes to the operation. -/
theorem wordsRoundTrip : Obligations.WordsRoundTrip := by
  intro i wf
  have h : decodeOpsel (encode i) = .ok i := roundTrip i wf
  exact ⟨fun rest => (decodeBytes_word (encode i) rest).trans h, fun _ hn => decodeTableWord_toNat hn h⟩

/-! ### Reserved words -/

/-- The words that are not reserved are those of the rows. -/
theorem exists_decodeOpsel_eq_ok_iff (w : Opsel) :
    (∃ i, decodeOpsel w = .ok i) ↔ ∃ i, IsRow (opselKind w).toNat (opselA w).toNat (opselB w).toNat i :=
  exists_congr fun i =>
    ⟨isRow_of_decodeOpsel, fun h => (everyWordHasOneMeaning w i).mpr (encode_of_isRow h)⟩

/-- The classes a family has packet operations for are those R79 lists. -/
theorem exists_packetInstr_iff (f : Family) (c : Nibble) :
    (∃ k i, k.code = c ∧ packetInstr f k = some i) ↔ c.toNat ∈ classCodes f := by
  simp only [← legalClass_iff, legalClass, ← packetClass_ofCode_eq_some_iff]
  cases PacketClass.ofCode c with
  | none => simp
  | some k => simp [Option.isSome_iff_exists]

/-- The (family, class) pairs R79 lists under KIND 0, as codes. -/
def legalPairs : List (Nat × Nat) := allFamilies.flatMap fun f => (classCodes f).map fun c => (f.code.toNat, c)

/-- Which pairs are legal. -/
theorem mem_legalPairs_iff {a c : Nat} : (a, c) ∈ legalPairs ↔ ∃ f, f.code.toNat = a ∧ c ∈ classCodes f := by
  simp only [legalPairs, List.mem_flatMap, List.mem_map, mem_allFamilies, true_and, Prod.mk.injEq]
  exact exists_congr fun f =>
    ⟨fun ⟨_, hc, ha, e⟩ => ⟨ha, e ▸ hc⟩, fun ⟨ha, hc⟩ => ⟨c, hc, ha, rfl⟩⟩

/-- The fields of the rows: the legal pairs under KIND 0 and those of `plainRows`. -/
theorem exists_isRow_iff (kind a : Nat) (b : Nibble) :
    (∃ i, IsRow kind a b.toNat i) ↔
      kind = 0 ∧ (a, b.toNat) ∈ legalPairs ∨ (kind, a, b.toNat) ∈ plainRows.map Prod.fst := by
  constructor
  · rintro ⟨i, h⟩
    generalize b.toNat = c at h ⊢
    cases h with
    | packet h => exact .inl ⟨rfl, mem_legalPairs_iff.mpr ⟨_, rfl, (exists_packetInstr_iff _ _).mp ⟨_, i, rfl, h⟩⟩⟩
    | plain h => exact .inr (List.mem_map_of_mem h)
  · rintro (⟨rfl, h⟩ | h)
    · obtain ⟨f, rfl, hc⟩ := mem_legalPairs_iff.mp h
      obtain ⟨k, i, rfl, hi⟩ := (exists_packetInstr_iff f b).mpr hc
      exact ⟨i, .packet hi⟩
    · obtain ⟨⟨_, i⟩, hrow, rfl⟩ := List.mem_map.mp h
      exact ⟨i, .plain hrow⟩

/-- The codes of a legal pair are not reserved (R73, R74). -/
theorem codes_of_mem_legalPairs : ∀ p ∈ legalPairs, 1 ≤ p.1 ∧ p.1 < 12 ∧ p.2 < 7 := by decide

/-- The fields of the other rows: A and B zero under KIND 1 to 4, three filter kinds under KIND 5 (R80). -/
theorem mem_plainRows_fields_iff (kind a b : Nat) :
    (kind, a, b) ∈ plainRows.map Prod.fst ↔
      1 ≤ kind ∧ kind ≤ 4 ∧ a = 0 ∧ b = 0 ∨ kind = 5 ∧ a < 3 ∧ b < 4 ∧ (a = 0 ∨ b < 2) := by
  constructor
  · have rows : ∀ p ∈ plainRows.map Prod.fst,
        1 ≤ p.1 ∧ p.1 ≤ 4 ∧ p.2.1 = 0 ∧ p.2.2 = 0 ∨
          p.1 = 5 ∧ p.2.1 < 3 ∧ p.2.2 < 4 ∧ (p.2.1 = 0 ∨ p.2.2 < 2) := by decide
    exact rows _
  · rintro (⟨h1, h4, rfl, rfl⟩ | ⟨rfl, ha, hb, hab⟩)
    · interval_cases kind <;> decide
    · interval_cases a <;> interval_cases b <;> revert hab <;> decide

/-- The decoder rejects a word or reads an operation from it. -/
theorem exists_error_iff {ε α : Type} (x : Except ε α) : (∃ r, x = .error r) ↔ ¬∃ i, x = .ok i := by
  cases x <;> simp

/-- Settles O3: a word is reserved exactly if its fields are those of no row, and no row has the fields the rule lists. -/
theorem reservedWordsAreRejected : Obligations.ReservedWordsAreRejected := by
  intro kind a b hkind ha hb
  generalize hw : BitVec.ofNat 12 (256 * kind + 16 * a + b) = w
  have number : w.toNat = 256 * kind + 16 * a + b := by
    rw [← hw, BitVec.toNat_ofNat]
    omega
  have fieldK : (opselKind w).toNat = kind := by rw [opselKind_toNat]; omega
  have fieldA : (opselA w).toNat = a := by rw [opselA_toNat]; omega
  have fieldB : (opselB w).toNat = b := by rw [opselB_toNat]; omega
  rw [exists_error_iff, exists_decodeOpsel_eq_ok_iff, exists_isRow_iff, fieldK, fieldA, fieldB, mem_plainRows_fields_iff]
  change _ ↔ 6 ≤ kind ∨ (kind = 0 ∧ (a = 0 ∨ 0xC ≤ a ∨ 7 ≤ b ∨ (a, b) ∉ legalPairs)) ∨ _
  by_cases legal : (a, b) ∈ legalPairs
  · have codes : 1 ≤ a ∧ a < 12 ∧ b < 7 := codes_of_mem_legalPairs _ legal
    simp only [legal, not_true_eq_false, and_true, or_false]
    omega
  · simp only [legal, not_false_eq_true, and_false, or_true, and_true, false_or]
    omega

/-! ### The step -/

/-- IDENT ends in a next state, whether the signature is known, unknown or of a reserved family (40_dispatch.md R90). -/
theorem execIdent_next (s : State) : ∃ u, execIdent s = .next u := by
  unfold execIdent
  dsimp only
  split
  · exact ⟨_, rfl⟩
  · split <;> exact ⟨_, rfl⟩

/-- On a valid configuration the oldest transaction is taken off the port. -/
theorem fetch_of_valid {s : State} {x : Txn} {ts : List Txn} (hv : s.cfg.valid = true) (hin : s.inbox = x :: ts) :
    fetch s = fetchTxn x { s with inbox := ts } := by
  simp only [fetch, hin, if_pos hv]

/-- A transaction whose word decodes to an operation that answers a next state ends there, the operands gone (R295). -/
theorem step_next {s t u : State} {w : Opsel} {i : Instr} (hf : fetch s = .run w t) (hd : decodeOpsel w = .ok i)
    (hx : exec i t = .next u) : step s = .next { u with opnd := {} } := by
  rw [step_run hf hd, hx]
  rfl

/-- Settles O5: the outcomes of a step by what its word decodes to; then IDENT, RESET and a word at the head of the port, each
taken off it with its operands. -/
theorem stepRunsTheDecodedOperation : Obligations.StepRunsTheDecodedOperation := by
  refine ⟨fun s t w hf => ⟨fun i u hd hx => step_next hf hd hx, fun i f hd hx => ?_, fun r hd => step_reserved hf hd⟩,
    fun s ts hv => ⟨fun e7 ec hin => ?_, fun hin => ?_, fun w o hin => fetch_of_valid hv hin⟩⟩
  · rw [step_run hf hd, hx]
    rfl
  · obtain ⟨u, hu⟩ := execIdent_next { s with inbox := ts, opnd := { e7 := e7, ec := ec } }
    exact ⟨u, hu, step_next (fetch_of_valid hv hin) (roundTrip .ident rfl) hu⟩
  · exact ⟨_, rfl, step_next (fetch_of_valid hv hin) (roundTrip .reset rfl) rfl⟩

end Sys2Proof.Machine
end

