-- ==== Sys2Proof/Proofs/Classifiers.lean ====
section
/-!
PROOF. The reference classifiers and byte-0 patterns (30_encoding.md R76, R78; 41_decoders_v1_v6.md, 42_decoders_v7_ss4.md) as
arithmetic on bytes. What a mask says of a byte is said once, bit by bit (`masked_eq_iff`); a classifier is then a chain of
conditions, each matched with the rule's own.
-/

namespace Sys2Proof.Machine

/-! ### What a mask says of a byte -/

/-- The bitwise and of two numbers of at most `k` bits, summed from the lowest bit up. -/
def andBits : Nat → Nat → Nat → Nat
  | 0, _, _ => 0
  | k + 1, n, m => n % 2 * (m % 2) + 2 * andBits k (n / 2) (m / 2)

/-- The lowest bit of a bitwise and. -/
theorem and_mod_two (n m : Nat) : (n &&& m) % 2 = n % 2 * (m % 2) := by
  have low : (n &&& m) % 2 = n % 2 &&& m % 2 := Nat.and_mod_two_pow (n := 1)
  rcases Nat.mod_two_eq_zero_or_one n with hn | hn <;> rcases Nat.mod_two_eq_zero_or_one m with hm | hm <;>
    simp [low, hn, hm]

/-- The sum is the bitwise and. -/
theorem and_eq_andBits {k n : Nat} (m : Nat) (hn : n < 2 ^ k) : n &&& m = andBits k n m := by
  induction k generalizing n m with
  | zero =>
    obtain rfl : n = 0 := by omega
    exact Nat.zero_and m
  | succ k ih =>
    rw [andBits, ← ih (m / 2) (by omega), ← Nat.and_div_two, ← and_mod_two]
    omega

/-- A masked byte is a value exactly if the sum of the bits the mask selects is. -/
theorem masked_eq_iff (x m v : Byte) : x &&& m = v ↔ andBits 8 x.toNat m.toNat = v.toNat := by
  rw [← and_eq_andBits m.toNat x.isLt, ← BitVec.toNat_and, BitVec.toNat_inj]

/-- A byte under the full mask. -/
@[simp] theorem masked_full_iff (x v : Byte) : x &&& 0xFF#8 = v ↔ x.toNat = v.toNat := by
  rw [← BitVec.toNat_inj]
  exact Eq.congr (congrArg BitVec.toNat (BitVec.and_allOnes (x := x))) rfl

/-! ### The byte-0 patterns -/

/-- The first byte passes the reference pattern of a family that has one (R78). -/
theorem fits_iff {f : Family} {q : Byte0} (hq : Reference.byte0.get f = some q) {x : Byte} {P : Prop}
    (pattern : x &&& q.mask0 = q.byte0 ↔ P) :
    (∃ q, Reference.byte0.get f = some q ∧ x &&& q.mask0 = q.byte0) ↔ P := by
  simp [hq, pattern]

/-- The patterns of the other V2 models, by the first byte (R78). -/
theorem byte0OtherV2_eq (x : Byte) :
    (Reference.byte0OtherV2.map fun q => decide (x &&& q.mask0 = q.byte0)) =
      [decide (x.toNat / 64 = 3 ∧ x.toNat % 16 = 15), decide (x.toNat / 32 = 7 ∧ x.toNat % 16 = 15),
       decide (x.toNat / 128 = 1 ∧ x.toNat % 16 = 15), decide (x.toNat = 255)] := by
  simp only [Reference.byte0OtherV2, List.map_cons, List.map_nil, List.cons.injEq, and_true, decide_eq_decide]
  refine ⟨?cf, ?ef, ?af, ?ff⟩
  case cf => simp [masked_eq_iff _ 0xCF#8, andBits]; omega
  case ef => simp [masked_eq_iff _ 0xEF#8, andBits]; omega
  case af => simp [masked_eq_iff _ 0x8F#8, andBits]; omega
  case ff => simp

/-! ### The classifiers -/

/-- A line of a classifier whose conditions say `P` decides where `P` holds, and leaves the rest to the other lines (R98). -/
theorem firstClass_line {p : List Byte} {caps : List Cap} {r : ClassRule} {rs : List ClassRule} {d x : Nibble} {P : Prop}
    [Decidable P] (line : (r.caps.all caps.contains && passesAll p r.tests) = true ↔ P) (rest : firstClass p caps rs d = x) :
    firstClass p caps (r :: rs) d = if P then r.cls else x := by
  rw [firstClass, rest]
  exact if_congr line rfl rfl

/-- A test compares the masked byte with its value. -/
theorem passes_iff (t : ByteTest) (p : List Byte) :
    t.passes p = true ↔ (byteAt p t.k &&& t.m = t.v ↔ t.eq = true) := by
  rw [ByteTest.passes, beq_iff_eq, Bool.eq_iff_iff, beq_iff_eq]

/-- The first of a line's tests. -/
@[simp] theorem passesAll_cons_iff (p : List Byte) (t : ByteTest) (ts : List ByteTest) :
    passesAll p (t :: ts) = true ↔ (byteAt p t.k &&& t.m = t.v ↔ t.eq = true) ∧ passesAll p ts = true := by
  rw [← passes_iff, passesAll, List.all_cons, Bool.and_eq_true, passesAll]

/-- No test is left. -/
@[simp] theorem passesAll_nil (p : List Byte) : passesAll p [] = true := rfl

section
variable (p : List Byte) (caps : List Cap)

/-- V1 and V2 (R131). -/
theorem classifyAbs_eq :
    classifyPacket Reference.classifyAbs p caps = if .dualpoint ∈ caps ∧ (byteAt p 5).toNat = 127 then 5 else 1 := by
  refine firstClass_line ?stick rfl
  case stick => simp

/-- V3 (R141). -/
theorem classifyV3_eq :
    classifyPacket Reference.classifyV3 p caps =
      if (byteAt p 5).toNat = 0x3F then 5 else if (byteAt p 0).toNat / 2 ^ 6 % 2 = 1 then 3 else 1 := by
  refine firstClass_line ?stick (firstClass_line ?multi rfl)
  case stick => simp
  case multi => simp [masked_eq_iff _ 0x40#8, andBits]; omega

/-- V3R (R141). -/
theorem classifyV3R_eq :
    classifyPacket Reference.classifyV3R p caps =
      if (byteAt p 5).toNat = 0x3F then 5 else if (byteAt p 5).toNat / 2 ^ 6 % 2 = 1 then 3 else 1 := by
  refine firstClass_line ?stick (firstClass_line ?multi rfl)
  case stick => simp
  case multi => simp [masked_eq_iff _ 0x40#8, andBits]; omega

/-- V4 (R151). -/
theorem classifyV4_eq :
    classifyPacket Reference.classifyV4 p caps = if (byteAt p 6).toNat / 2 ^ 6 % 2 = 1 then 1 else 3 := by
  refine firstClass_line ?one rfl
  case one => simp [masked_eq_iff _ 0x40#8, andBits]; omega

/-- V5 (R160). -/
theorem classifyV5_eq :
    classifyPacket Reference.classifyV5 p caps = if (byteAt p 0).toNat / 2 ^ 5 % 2 = 1 then 3 else 1 := by
  refine firstClass_line ?multi rfl
  case multi => simp [masked_eq_iff _ 0x20#8, andBits]; omega

/-- V6 (R170). -/
theorem classifyV6_eq :
    classifyPacket Reference.classifyV6 p caps = if (byteAt p 5).toNat = 0x7F then 5 else 1 := by
  refine firstClass_line ?stick rfl
  case stick => simp

/-- V7 (R181). -/
theorem classifyV7_eq :
    classifyPacket Reference.classifyV7 p caps =
      if (byteAt p 0).toNat = 0x48 ∧ ¬(byteAt p 4).toNat / 2 ^ 6 % 2 = 1 ∧ (byteAt p 4).toNat % 8 = 6 then 5
      else if (byteAt p 4).toNat / 2 ^ 6 % 2 = 1 then 2
      else if (byteAt p 4).toNat / 2 ^ 0 % 2 = 1 then 3
      else if (byteAt p 0).toNat / 2 ^ 4 % 2 = 1 ∧ ¬(byteAt p 4).toNat / 2 ^ 6 % 2 = 1 ∧
        ¬(byteAt p 4).toNat / 2 ^ 1 % 2 = 1 ∧ ¬(byteAt p 4).toNat / 2 ^ 0 % 2 = 1 then 4
      else if (byteAt p 1).toNat = 0 ∧ (byteAt p 4).toNat = 0 then 0
      else 6 := by
  refine firstClass_line ?stick (firstClass_line ?two (firstClass_line ?multi (firstClass_line ?new
    (firstClass_line ?idle rfl))))
  case stick => simp [masked_eq_iff _ 0x47#8, andBits]; omega
  case two => simp [masked_eq_iff _ 0x40#8, andBits]; omega
  case multi => simp [masked_eq_iff _ 0x01#8, andBits]
  case new => simp [masked_eq_iff _ 0x10#8, masked_eq_iff _ 0x43#8, andBits]; omega
  case idle => simp

/-- V8 and SS4P, line by line (R196): the IDLE pattern is a case of the two-bit code 0. -/
theorem classifySS4_eq :
    classifyPacket Reference.classifySS4 p caps =
      if (byteAt p 3).toNat / 16 % 4 = 0 ∧ (byteAt p 0).toNat = 0x18 ∧ (byteAt p 1).toNat = 0x10 ∧
        (byteAt p 2).toNat = 0 ∧ ¬(byteAt p 3).toNat / 2 ^ 7 % 2 = 1 ∧ (byteAt p 3).toNat / 2 ^ 3 % 2 = 1 ∧
        (byteAt p 4).toNat = 0x10 ∧ (byteAt p 5).toNat = 0 then 0
      else if (byteAt p 3).toNat / 16 % 4 = 0 then 1
      else if (byteAt p 3).toNat / 16 % 4 = 1 then 2
      else if (byteAt p 3).toNat / 16 % 4 = 2 then 5
      else 3 := by
  refine firstClass_line ?idle (firstClass_line ?one (firstClass_line ?two (firstClass_line ?stick rfl)))
  case idle => simp [masked_eq_iff _ 0x30#8, masked_eq_iff _ 0x88#8, andBits]; omega
  case one | two | stick => simp [masked_eq_iff _ 0x30#8, andBits]; omega

end

/-- A condition that a line repeats with one more is asked once. -/
theorem ite_and_ite {α : Type} (P Q : Prop) [Decidable P] [Decidable Q] (a b c : α) :
    (if P ∧ Q then a else if P then b else c) = if P then (if Q then a else b) else c := by
  by_cases P <;> simp [*]

/-- Settles O60: every clause is a pattern, a length or a classifier of Machine/Reference.lean, its masks read as arithmetic. -/
theorem referenceClassifiers : Obligations.ReferenceClassifiers := by
  intro p caps
  refine ⟨fits_iff rfl ?v1, fits_iff rfl ?v2, ?v3, fits_iff rfl ?v5, fits_iff rfl ?v7, ?ss4, rfl, rfl,
    byte0OtherV2_eq (byteAt p 0), ?pktLen, classifyAbs_eq p caps, rfl, classifyV3_eq p caps, classifyV3R_eq p caps,
    classifyV4_eq p caps, classifyV5_eq p caps, classifyV6_eq p caps, classifyV7_eq p caps,
    (classifySS4_eq p caps).trans (ite_and_ite _ _ _ _ _), rfl⟩
  case v1 | v2 => simp [masked_eq_iff _ 0xF8#8, andBits]; omega
  case v3 =>
    have pattern : byteAt p 0 &&& 0x8F = 0x8F ↔ (byteAt p 0).toNat / 2 ^ 7 % 2 = 1 ∧ (byteAt p 0).toNat % 16 = 0xF := by
      simp [masked_eq_iff _ 0x8F#8, andBits]; omega
    rintro f (rfl | rfl | rfl) <;> exact fits_iff rfl pattern
  case v5 => simp [masked_eq_iff _ 0xC8#8, andBits]; omega
  case v7 => simp [masked_eq_iff _ 0x48#8, andBits]; omega
  case ss4 =>
    have pattern :
        byteAt p 0 &&& 0x18 = 0x18 ↔ (byteAt p 0).toNat / 2 ^ 4 % 2 = 1 ∧ (byteAt p 0).toNat / 2 ^ 3 % 2 = 1 := by
      simp [masked_eq_iff _ 0x18#8, andBits]; omega
    rintro f (rfl | rfl) <;> exact fits_iff rfl pattern
  case pktLen =>
    intro f hf
    cases f with
    | v9 => exact absurd rfl hf
    | v1 | v2 | v3 | v3r | v4 | v5 | v6 | v7 | v8 | ss4p => rfl

end Sys2Proof.Machine
end

/-!
PROOF. Dispatch (40_dispatch.md): which operation a packet runs, what IDENT selects, and the ways PROCESS ends that show no frame of
one packet: idle, unknown and dropped packets, the opener of a group, the merged end of a group, a continuation out of sequence.
Each way is said once of PROCESS on a fresh packet, for any family and fields; an obligation then reads off what its own operations
decode.
-/

namespace Sys2Proof.Machine

/-! ### The contact list -/

/-- Without positions the contact list is the single-touch position, if a finger counts (40_dispatch.md R114). -/
theorem contactsOf_of_npos_eq_zero {f : Fields} (h : f.npos = 0) :
    contactsOf f = if 1 ≤ f.fingers then [⟨f.st.x, f.st.y, f.pressure, 0⟩] else [] := by
  rw [contactsOf, if_pos h]

/-- With positions the contact list takes them in order, as many as fingers and positions allow (40_dispatch.md R114). -/
theorem contactsOf_of_npos_pos {f : Fields} (h : 1 ≤ f.npos) :
    contactsOf f =
      (f.mt.toList.zipIdx.take (min f.fingers f.npos)).map fun p => ⟨p.1.x, p.1.y, f.pressure, p.2⟩ := by
  rw [contactsOf, if_neg (by omega)]

/-- Settles O42: the two forms of the contact list; `npos ≤ 5` keeps the count within the five positions. -/
theorem contactListOfAFrame : Obligations.ContactListOfAFrame := by
  refine fun f => ⟨fun npos zero => ?_, fun npos one => ?_, fun npos five => ⟨?_, fun i hi hn => ?_⟩⟩
  · rw [contactsOf_of_npos_eq_zero npos, if_neg (by omega)]
  · rw [contactsOf_of_npos_eq_zero npos, if_pos one]
  · simp only [contactsOf_of_npos_pos npos, List.length_map, List.length_take, List.length_zipIdx, Vector.length_toList]
    omega
  · simp [contactsOf_of_npos_pos npos, hn, hi]

/-! ### Identification -/

/-- Matching in all three bytes is equality (40_dispatch.md R91). -/
theorem sigMatches_iff (a b : Sig) : a.matches b = true ↔ a = b := by
  cases a; cases b
  simp [Sig.matches, and_assoc]

/-- Equality of signatures, byte by byte. -/
theorem sig_eq_iff (a b : Sig) : a = b ↔ a.b0 = b.b0 ∧ a.b1 = b.b1 ∧ a.b2 = b.b2 := by
  cases a; cases b
  simp

/-- Lookup fails exactly if no entry has the signature. -/
theorem lookup_eq_none_iff (k : Sig) (reg : List RegEntry) : lookup k reg = none ↔ ∀ e ∈ reg, e.sig ≠ k := by
  induction reg with
  | nil => simp [lookup]
  | cons e es ih =>
    rw [lookup]
    split
    · next hit => simp [(sigMatches_iff _ _).mp hit]
    · next miss =>
      rw [sigMatches_iff] at miss
      simp [ih, miss]

/-- On a registry that has no signature twice, lookup finds exactly the entry of the signature. -/
theorem lookup_eq_some_iff {reg : List RegEntry} (hreg : reg.Pairwise fun a b => a.sig ≠ b.sig) (k : Sig) (e : RegEntry) :
    lookup k reg = some e ↔ e ∈ reg ∧ e.sig = k := by
  induction reg with
  | nil => simp [lookup]
  | cons d ds ih =>
    obtain ⟨distinct, rest⟩ := List.pairwise_cons.mp hreg
    rw [lookup]
    split
    · next hit =>
      have hd : d.sig = k := (sigMatches_iff _ _).mp hit
      constructor
      · rintro ⟨⟩
        exact ⟨List.mem_cons_self .., hd⟩
      · rintro ⟨hmem, hk⟩
        rcases List.mem_cons.mp hmem with rfl | hmem
        · rfl
        · exact absurd (hd.trans hk.symm) (distinct e hmem)
    · next miss =>
      have hd : d.sig ≠ k := mt (sigMatches_iff _ _).mpr miss
      rw [ih rest, List.mem_cons]
      constructor
      · exact fun ⟨hmem, hk⟩ => ⟨.inr hmem, hk⟩
      · rintro ⟨rfl | hmem, hk⟩
        · exact absurd hk hd
        · exact ⟨hmem, hk⟩

/-- Settles O13: lookup finds the entry of a signature, and two signatures are equal byte by byte. -/
theorem registryLookupIsExact : Obligations.RegistryLookupIsExact := by
  intro reg k hreg
  obtain ⟨signatures, -⟩ := (registryValid_iff reg).mp hreg
  constructor
  · intro e
    rw [lookup_eq_some_iff signatures, sig_eq_iff]
  · rw [lookup_eq_none_iff]
    exact forall₂_congr fun e _ => not_congr (sig_eq_iff e.sig k)

/-- A cleared finger is as reset leaves it (70_reset_and_hazards.md R320). -/
theorem fingerClear_isReset (c : Cfg) (v : VFinger) : FingerIsReset c v.clear :=
  ⟨rfl, rfl, rfl, rfl, rfl, rfl, filterClear_isReset c _, filterClear_isReset c _⟩

/-- RESET_ALL resets what R320 lists. -/
theorem resetAll_allReset (s : State) : AllReset s (resetAll s) where
  cfg := rfl
  inbox := rfl
  opnd := rfl
  refused := rfl
  prevFin := rfl
  closed := ⟨rfl, rfl⟩
  invalid := rfl
  orient := rfl
  buffer := ⟨fun _ => rfl, rfl⟩
  prev := ⟨rfl, rfl⟩
  fields := rfl
  fingers := fun i => resetAll_vf s i i.isLt ▸ fingerClear_isReset s.cfg _
  report := rfl

/-- What R320 lists does not depend on the descriptor, the firmware version, the device state or the status. -/
theorem AllReset.of_identified {s t : State} (h : AllReset s t) (d : Descriptor) (v : Sig) (m : DevState) (u : Status) :
    AllReset s { t with desc := d, ctx := { t.ctx with fwVersion := v }, devState := m, status := u } where
  cfg := h.cfg
  inbox := h.inbox
  opnd := h.opnd
  refused := h.refused
  prevFin := h.prevFin
  closed := ⟨h.closed.notOpen, h.closed.empty⟩
  invalid := h.invalid
  orient := h.orient
  buffer := ⟨h.buffer.bytes, h.buffer.entries⟩
  prev := h.prev
  fields := h.fields
  fingers := h.fingers
  report := h.report

/-- IDENT of a signature whose entry names a family (40_dispatch.md R90). -/
theorem execIdent_of_lookup {s : State} {e : RegEntry} {f : Family} (he : lookup s.opnd.e7 s.cfg.registry = some e)
    (hf : Family.ofCode e.tag = some f) :
    execIdent s =
      .next
        { resetAll s with
          desc := entryDescriptor f e, ctx := { (resetAll s).ctx with fwVersion := s.opnd.ec }
          devState := .ready, status := Status.silent } := by
  simp only [execIdent, he, hf]

/-- Settles O14: lookup finds the entry, its tag names the family, and what IDENT writes over RESET_ALL is no part of R320's
list. -/
theorem identSelectsTheDescriptor : Obligations.IdentSelectsTheDescriptor := by
  intro s e f hreg hmem hsig htag
  obtain ⟨signatures, -⟩ := (registryValid_iff s.cfg.registry).mp hreg
  have he : lookup s.opnd.e7 s.cfg.registry = some e := (lookup_eq_some_iff signatures _ _).mpr ⟨hmem, hsig⟩
  have hf : Family.ofCode e.tag = some f := family_ofCode_eq_some_iff.mpr htag.symm
  exact ⟨_, execIdent_of_lookup he hf, (resetAll_allReset s).of_identified _ _ _ _, rfl, rfl, rfl, rfl, rfl⟩

/-! ### The operation a packet runs -/

/-- The first class rule that holds gives its own class, and the default stands where none does. -/
theorem firstClass_mem (p : List Byte) (caps : List Cap) (rs : List ClassRule) (d : Nibble) :
    firstClass p caps rs d = d ∨ ∃ r ∈ rs, firstClass p caps rs d = r.cls := by
  induction rs with
  | nil => exact .inl rfl
  | cons r rs ih =>
    rw [firstClass]
    split
    · exact .inr ⟨r, List.mem_cons_self .., rfl⟩
    · exact ih.imp_right fun ⟨q, hq, h⟩ => ⟨q, List.mem_cons_of_mem _ hq, h⟩

/-- Under a valid configuration a family's classifier returns classes of the family (30_encoding.md R80). -/
theorem classifyPacket_legal {c : Cfg} (hc : c.valid = true) {f : Family} (hf : f ≠ .v9) (p : List Byte) (caps : List Cap) :
    (classifyPacket (c.classify.get f) p caps).toNat ∈ classCodes f := by
  obtain ⟨default, lines⟩ := ((cfgValid_iff_meetsConstraints c).mp hc).classes f hf
  rw [classifyPacket]
  rcases firstClass_mem p caps (c.classify.get f).rules (c.classify.get f).otherwise with h | ⟨r, hr, h⟩
  · rw [h]; exact default
  · rw [h]; exact lines r hr

/-- A packet operation whose packet holds the bytes its family's layout reads answers what PROCESS does with some decode result
on the fresh packet. -/
theorem exec_packetInstr_process {fam : Family} {cls : PacketClass} {i : Instr} (hi : packetInstr fam cls = some i)
    (hfam : fam ≠ .v9) {s : State} (h : s.cfg.layouts.reach fam ≤ s.opnd.pkt.length) :
    ∃ r, exec i s = .next (process fam r (beginPacket cls s)) := by
  by_cases reading : cls ∈ readingClasses
  · obtain ⟨dec, hexec⟩ := exec_packetInstr_runDecoder hi hfam reading s
    exact ⟨dec (beginPacket cls s), hexec.trans (runDecoder_next h)⟩
  · cases cls with
    | one | two | multi | stick => exact absurd (by decide) reading
    | idle | new | unknown =>
      cases fam with
      | v9 => exact absurd rfl hfam
      | v1 | v2 | v3 | v3r | v4 | v5 | v6 | v7 | v8 | ss4p => cases hi <;> exact ⟨_, rfl⟩

/-- A packet that passes the checks of R95 steps 2 to 5 forms the word of its family and class on fresh fields. -/
theorem fetchPkt_passing {p : List Byte} {s : State} (hready : s.devState = .ready)
    (hlen : p.length = s.cfg.pktLen.get s.desc.fam) (hbyte : byteAt p 0 &&& s.desc.mask0 = s.desc.byte0)
    (hfam : s.desc.fam ≠ .v9) :
    fetchPkt p s =
      .run (packetOpsel s.desc.fam (classifyPacket (s.cfg.classify.get s.desc.fam) p s.desc.caps))
        { freshFields s with opnd := { Operands.none with pkt := p } } := by
  simp only [fetchPkt, hready, hlen, hbyte, hfam, ne_eq, not_true_eq_false, if_false]

/-- Settles O6: the constraints make the class legal, so the pair has an operation and its word decodes to it; the packet's length
covers what the layout reads, so the operation ends in a next state. -/
theorem packetRunsItsOperation : Obligations.PacketRunsItsOperation := by
  intro s p ts hv hin hready hlen hbyte hfam
  obtain ⟨k, i, hk, hi⟩ := (exists_packetInstr_iff _ _).mpr (classifyPacket_legal hv hfam p s.desc.caps)
  have reads : s.cfg.layouts.reach s.desc.fam ≤ p.length :=
    hlen ▸ (((cfgValid_iff_meetsConstraints s.cfg).mp hv).reads s.desc.fam hfam).1
  obtain ⟨r, hexec⟩ := exec_packetInstr_process hi hfam
    (s := { s with inbox := ts, fields := {}, status := ⟨.silent, 0, false, false⟩, opnd := { pkt := p } }) reads
  have word := (fetch_of_valid hv hin).trans (fetchPkt_passing hready hlen hbyte hfam)
  rw [← hk] at word
  exact ⟨k, i, _, hk.symm, hi, hexec, step_next word (decode_packetOpsel hi) hexec⟩

/-! ### Idle and unknown packets -/

/-- What an idle packet shows depends on the state before only through the configuration, the descriptor, the pool and the
report. -/
theorem ShowsIdle.of_same {fam : Family} {cls : Nibble} {res : TxResult} {err : BitVec 3} {s s' t : State}
    (h : ShowsIdle fam cls res err s t) (hc : s'.cfg = s.cfg) (hd : s'.desc = s.desc) (hv : s'.vf = s.vf)
    (hr : s'.report = s.report) : ShowsIdle fam cls res err s' t := by
  obtain ⟨fields, pool, status, suppressed, emitted⟩ := h
  rw [← hc] at pool status suppressed emitted
  rw [← hv] at pool
  rw [← hr] at suppressed emitted
  rw [← hd] at emitted
  exact ⟨fields, pool, status, suppressed, emitted⟩

/-- An error after an idle packet's effect changes only the result and the code. -/
theorem ShowsIdle.raiseError {fam : Family} {cls : Nibble} {res : TxResult} {err : BitVec 3} {s t : State}
    (h : ShowsIdle fam cls res err s t) (e : ErrorKind) : ShowsIdle fam cls .error e.code s (raiseError e t) := by
  obtain ⟨fields, pool, status, suppressed, emitted⟩ := h
  exact ⟨fields, pool, by simp only [Machine.raiseError, status], suppressed, emitted⟩

/-- An idle packet abandons an open group and shows no contacts (40_dispatch.md R100, R102). -/
theorem process_idle (fam : Family) (cls : PacketClass) (s : State) :
    let t := process fam .idle (beginPacket cls s)
    KeepsDevice s t ∧ KeepsPairing s t ∧ KeepsBuffer s t ∧ AbandonsGroup s t ∧ t.ctx.prevFin = s.ctx.prevFin ∧
      ShowsIdle fam cls.code (if s.cfg.idleReport = .emit then .frame else .silent) 0 s t := by
  intro t
  have hctx : t.ctx = { (abandon (beginPacket cls s)).ctx with prevFin := s.ctx.prevFin } := by
    rw [show t.ctx = _ from processIdle_ctx _ _, abandon_ctx_kept]
    rfl
  obtain ⟨pairing, buffer, group, prevFin⟩ := context_after_abandon hctx
  have shows := processIdle_shows fam (s := abandon (beginPacket cls s)) (cls := cls.code) (by simp) (by simp)
  rw [abandon_cfg] at shows
  exact ⟨process_keepsDevice _ _ _ _ (process_fwVersion _ _ _), pairing, buffer, group, prevFin,
    shows.of_same (by simp) (by simp) (by simp) (by simp)⟩

/-- Settles O37: the three operations run PROCESS(IDLE). -/
theorem idlePackets : Obligations.IdlePackets := by
  intro s i fam hmem
  simp only [List.mem_cons, Prod.mk.injEq, List.not_mem_nil, or_false] at hmem
  rcases hmem with ⟨rfl, rfl⟩ | ⟨rfl, rfl⟩ | ⟨rfl, rfl⟩ <;> exact ⟨_, rfl, process_idle _ .idle s⟩

/-- A context reset forgets whether a group was abandoned before it. -/
theorem ctxReset_abandon (s : State) : ctxReset (abandon s) = ctxReset s := by
  unfold abandon
  split <;> rfl

/-- A context that CTX_RESET leaves is reset, and nothing else of it (10_state.md R31). -/
theorem contextReset_of_ctx {s t : State} (h : t.ctx = (ctxReset s).ctx) : ContextReset s t := by
  constructor
  case closed => constructor <;> rw [h] <;> rfl
  case prev => rw [h]; exact ⟨rfl, rfl⟩
  case buffer => constructor <;> rw [h] <;> intros <;> rfl
  all_goals rw [h]; rfl

/-- An unclassifiable packet resets the context and idles before its error (40_dispatch.md R109; 60_exceptions.md R298). -/
theorem process_unknown (fam : Family) (cls : PacketClass) (s : State) :
    let t := process fam .unknown (beginPacket cls s)
    KeepsDevice s t ∧ ContextReset s t ∧ ShowsIdle fam cls.code .error 4 s t := by
  intro t
  have ends : t = raiseError .unknownPacketClassification (processIdle fam (ctxReset (beginPacket cls s))) := by
    rw [← ctxReset_abandon]
    rfl
  have hctx : t.ctx = (ctxReset s).ctx := by
    rw [ends, raiseError_ctx, processIdle_ctx]
    rfl
  have shows := processIdle_shows fam (s := ctxReset (beginPacket cls s)) (cls := cls.code) rfl rfl
  exact ⟨process_keepsDevice _ _ _ _ (process_fwVersion _ _ _), contextReset_of_ctx hctx,
    ends ▸ (shows.raiseError .unknownPacketClassification).of_same rfl rfl rfl rfl⟩

/-- Settles O38: the three operations run PROCESS(UNKNOWN). -/
theorem unknownPackets : Obligations.UnknownPackets := by
  intro s i fam hmem
  simp only [List.mem_cons, Prod.mk.injEq, List.not_mem_nil, or_false] at hmem
  rcases hmem with ⟨rfl, rfl⟩ | ⟨rfl, rfl⟩ | ⟨rfl, rfl⟩ <;> exact ⟨_, rfl, process_unknown _ .unknown s⟩

/-! ### Dropped packets -/

/-- A dropped packet abandons an open group and shows nothing (40_dispatch.md R100, R103). -/
theorem process_drop (fam : Family) (cls : PacketClass) (s : State) :
    let t := process fam .drop (beginPacket cls s)
    KeepsDevice s t ∧ KeepsPairing s t ∧ KeepsBuffer s t ∧ AbandonsGroup s t ∧ StaysSilent s t ∧
      t.ctx.prevFin = s.ctx.prevFin ∧ t.fields = { cls := cls.code } := by
  intro t
  have hctx : t.ctx = { (abandon (beginPacket cls s)).ctx with prevFin := s.ctx.prevFin } := by
    rw [show t = abandon (beginPacket cls s) from rfl, abandon_ctx_kept]
    rfl
  obtain ⟨pairing, buffer, group, prevFin⟩ := context_after_abandon hctx
  refine ⟨process_keepsDevice _ _ _ _ (process_fwVersion _ _ _), pairing, buffer, group, ?_, prevFin, abandon_fields _⟩
  exact ⟨abandon_vf _, abandon_report _, abandon_status _⟩

/-- A stick packet is dropped where a sanity test rejects it and on a device without DUALPOINT (41_decoders_v1_v6.md R137,
R146). -/
theorem decodeStick_drop {l : StickLayout} {s : State}
    (h : l.reject.any (passesAll s.opnd.pkt) = true ∨ .dualpoint ∉ s.desc.caps) : decodeStick l s = .drop := by
  rw [decodeStick]
  split
  · next dual =>
    have rejected := h.resolve_right (by simpa [Descriptor.has] using dual)
    rw [if_pos rejected]
  · rfl

/-- Settles O39: DEC.V7.NEW drops every packet, and the stick operations decode to a drop. -/
theorem droppedPackets : Obligations.DroppedPackets := by
  intro s p L i reach dropped cls hmem hreach hdrop
  have stick {fam : Family} {l : StickLayout} (hr : L.reach fam ≤ p.length)
      (hd : l.reject.any (passesAll p) = true ∨ .dualpoint ∉ s.desc.caps) :
      runDecoder fam .stick (decodeStick l) s = .next (process fam .drop (beginPacket .stick s)) := by
    rw [runDecoder_next hr, decodeStick_drop (s := beginPacket .stick s) hd]
  simp only [List.mem_cons, Prod.mk.injEq, List.not_mem_nil, or_false] at hmem
  rcases hmem with ⟨rfl, rfl, rfl, rfl⟩ | hmem
  · exact ⟨_, rfl, process_drop .v7 .new s⟩
  · rcases hmem with ⟨rfl, rfl, rfl, rfl⟩ | ⟨rfl, rfl, rfl, rfl⟩ | ⟨rfl, rfl, rfl, rfl⟩ | ⟨rfl, rfl, rfl, rfl⟩ |
      ⟨rfl, rfl, rfl, rfl⟩ | ⟨rfl, rfl, rfl, rfl⟩ <;>
      exact ⟨_, stick hreach hdrop, process_drop _ .stick s⟩

/-! ### A continuation out of sequence -/

/-- A continuation with no group open or with the buffer full resets the context and ends with error 3 (40_dispatch.md R106,
R107). -/
theorem process_cont_out {s : State} (h : s.ctx.mpOpen = false ∨ mpCap ≤ s.ctx.mpFill) (fam : Family) (cls : PacketClass)
    (f : Fields) (term : Bool) (m : Merge) :
    let t := process fam (.cont f term m) (beginPacket cls s)
    KeepsDevice s t ∧ ContextReset s t ∧ t.fields = { cls := cls.code } ∧ t.vf = s.vf ∧ t.report = s.report ∧
      t.status = ⟨.error, 3, false, false⟩ := by
  intro t
  have out : t = raiseOutOfSequence (beginPacket cls s) := processCont_out (s := beginPacket cls s) h
  have hctx : t.ctx = (ctxReset s).ctx := (congrArg State.ctx out :)
  refine ⟨process_keepsDevice _ _ _ _ (process_fwVersion _ _ _), contextReset_of_ctx hctx, ?_⟩
  rw [out]
  exact ⟨rfl, rfl, rfl, rfl⟩

/-- Settles O36: the six operations decode to a continuation. -/
theorem continuationOutOfSequence : Obligations.ContinuationOutOfSequence := by
  intro s h i reach hmem hreach
  simp only [List.mem_cons, Prod.mk.injEq, List.not_mem_nil, or_false] at hmem
  rcases hmem with ⟨rfl, rfl⟩ | ⟨rfl, rfl⟩ | ⟨rfl, rfl⟩ | ⟨rfl, rfl⟩ | ⟨rfl, rfl⟩ | ⟨rfl, rfl⟩ <;>
    exact ⟨_, runDecoder_next hreach, process_cont_out h _ .multi _ _ _⟩

/-! ### Storing a packet of a group -/

/-- The trackstick buttons of stored fields are those the device keeps (40_dispatch.md R113). -/
theorem gateTs_eq (d : Descriptor) (f : Fields) :
    gateTs d f =
      { f with tsLeft := keptTs d f.tsLeft, tsRight := keptTs d f.tsRight, tsMiddle := keptTs d f.tsMiddle } := by
  by_cases h : Cap.tsButtons ∈ d.caps <;> simp [gateTs, keptTs, Descriptor.has, h]

/-- A state whose buffer is the one before with packet p and fields f stored at the fill count holds them as the entry of that
number. -/
theorem storesEntry_of_store {c : Ctx} {p : List Byte} {f : Fields} {s t : State} (hwf : s.ctx.mpMem.wf)
    (hm : c.mpMem = s.ctx.mpMem) (he : c.mpFields = s.ctx.mpFields) (htm : t.ctx.mpMem = (c.store p f).mpMem)
    (hte : t.ctx.mpFields = (c.store p f).mpFields) : StoresEntry c.mpFill p f s t := by
  have wf : c.mpMem.wf := hm ▸ hwf
  refine ⟨fun k hk => ?_, fun a ha => ?_, fun h => ?_, fun i h ne => ?_⟩
  · rw [htm]
    exact Ctx.store_read_same wf p f hk
  · rw [htm, Ctx.store_read_other wf p f ha, hm]
  · simp [hte, Ctx.store]
  · simp only [hte, Ctx.store, ← he]
    exact Vector.getElem_setIfInBounds_ne _ (Ne.symm ne)

/-- An opener becomes entry 0 of an open group, its trackstick buttons gated, and shows nothing (40_dispatch.md R101). -/
theorem process_opener {fam : Family} (hfam : hasMp fam = true) {f g : Fields} (hf : f.firstMp = true) {s : State}
    (hg : gateTs s.desc f = g) (hwf : s.ctx.mpMem.wf) (cls : PacketClass) :
    let t := process fam (.pos f none) (beginPacket cls s)
    KeepsDevice s t ∧ KeepsPairing s t ∧ StaysSilent s t ∧ t.ctx.prevFin = s.ctx.prevFin ∧
      t.fields = { cls := cls.code } ∧ t.ctx.mpOpen = true ∧ t.ctx.mpFill = 1 ∧ StoresEntry 0 s.opnd.pkt g s t := by
  intro t
  have device : KeepsDevice s t := process_keepsDevice _ _ _ _ (process_fwVersion _ _ _)
  have opens : t =
      { beginPacket cls s with
        ctx := { ({ s.ctx with mpFill := 0 } : Ctx).store s.opnd.pkt g with mpOpen := true } } := by
    change processPos fam f none (abandon (beginPacket cls s)) = _
    rw [processPos_opener fam f _ (by rw [hf, hfam]; rfl), abandon_desc, beginPacket_desc, hg]
    unfold abandon
    split <;> rfl
  rw [opens] at device ⊢
  exact ⟨device, ⟨rfl, rfl, rfl, rfl⟩, ⟨rfl, rfl, rfl⟩, rfl, rfl, rfl, rfl,
    storesEntry_of_store (c := { s.ctx with mpFill := 0 }) hwf rfl rfl rfl rfl⟩

/-! ### Openers -/

/-- The fields of a packet of V3, V3R or V5 with first_mp, gated: the position, the pressure and what counts from it, the six
buttons (41_decoders_v1_v6.md R144, R161). -/
def singleOpener (d : Descriptor) (p : List Byte) (x y : Terms) (z : Nat) (b : ButtonLayout) : Fields :=
  { st := ⟨field p x, field p y⟩, pressure := z, fingers := if 0 < z then 1 else 0
    left := flag p b.left, right := flag p b.right, middle := flag p b.middle
    tsLeft := keptTs d (flag p b.tsLeft), tsRight := keptTs d (flag p b.tsRight)
    tsMiddle := keptTs d (flag p b.tsMiddle), firstMp := true, cls := 1 }

/-- What V3 and V3R decode of an opener, gated. -/
theorem gateTs_pinnacleFields (d : Descriptor) {l : PinnacleLayout} {p : List Byte} (h : flag p l.firstMp = true) :
    gateTs d (pinnacleFields l p { cls := 1 }) = singleOpener d p l.stX l.stY (field p l.pressure) l.buttons := by
  rw [gateTs_eq]
  simp only [pinnacleFields, putButtons, h]
  rfl

/-- What V5 decodes of an opener, gated. -/
theorem gateTs_dolphinFields (d : Descriptor) {l : DolphinLayout} {p : List Byte} (h : flag p l.firstMp = true) :
    gateTs d (dolphinFields l p { cls := 1 }) = singleOpener d p l.stX l.stY (dolphinPressure l p) l.buttons := by
  rw [gateTs_eq]
  simp only [dolphinFields, putButtons, h]
  rfl

/-- Fields without trackstick buttons are not gated. -/
theorem gateTs_of_none (d : Descriptor) {f : Fields} (hl : f.tsLeft = false) (hr : f.tsRight = false)
    (hm : f.tsMiddle = false) : gateTs d f = f := by
  rw [gateTs_eq, hl, hr, hm]
  cases f
  simp_all [keptTs]

/-- The fields of a TWO packet with the continuation bit (42_decoders_v7_ss4.md R202): no finger counts yet. -/
def doubleOpener (d : Descriptor) (p : List Byte) (l : SS4Layout) : Fields :=
  { mt :=
      if .buttonpad ∈ d.caps then
        #v[⟨field p l.btlX0, field p l.btlY0⟩, ⟨field p l.btlX1, field p l.btlY1⟩, ⟨0, 0⟩, ⟨0, 0⟩, ⟨0, 0⟩]
      else #v[⟨field p l.stdX0, field p l.stdY0⟩, ⟨field p l.stdX1, field p l.stdY1⟩, ⟨0, 0⟩, ⟨0, 0⟩, ⟨0, 0⟩]
    npos := 2, fingers := 0, pressure := if field p l.mfZ0 ≠ 0 then l.twoPressure else 0
    left := flag p l.left, right := decide (.buttonpad ∉ d.caps) && flag p l.right
    middle := decide (.buttonpad ∉ d.caps) && flag p l.middle, firstMp := true, cls := 2 }

/-- The first two positions written over none. -/
theorem twoPositions_eq (a b : Pos) :
    ((Vector.replicate 5 (⟨0, 0⟩ : Pos)).set 0 a).set 1 b = #v[a, b, ⟨0, 0⟩, ⟨0, 0⟩, ⟨0, 0⟩] := rfl

/-- What V8 and SS4-Plus decode of an opener. -/
theorem gateTs_ss4TwoFields (d : Descriptor) {l : SS4Layout} {p : List Byte} (h : flag p l.cont = true) :
    gateTs d (ss4TwoFields l p (d.has .buttonpad) { cls := 2 }) = doubleOpener d p l := by
  rw [gateTs_of_none d rfl rfl rfl]
  simp only [ss4TwoFields, ss4Buttons, doubleOpener, twoPositions_eq, h, if_true]
  by_cases pad : Cap.buttonpad ∈ d.caps <;>
    simp [ss4Pos0, ss4Pos1, Descriptor.has, pad, coord]

/-- Settles O31: each operation decodes to an opener, and its gated fields are those the rules give. -/
theorem openerIsStored : Obligations.OpenerIsStored := by
  intro s hwf p L single double i reach first cls f hmem hreach hfirst
  simp only [List.mem_cons, Prod.mk.injEq, List.not_mem_nil, or_false] at hmem
  rcases hmem with ⟨rfl, rfl, rfl, rfl, rfl⟩ | ⟨rfl, rfl, rfl, rfl, rfl⟩ | ⟨rfl, rfl, rfl, rfl, rfl⟩ |
    ⟨rfl, rfl, rfl, rfl, rfl⟩ | ⟨rfl, rfl, rfl, rfl, rfl⟩ | ⟨rfl, rfl, rfl, rfl, rfl⟩
  case inl | inr.inl =>
    exact ⟨_, runDecoder_next hreach, process_opener rfl hfirst (gateTs_pinnacleFields s.desc hfirst) hwf .one⟩
  case inr.inr.inl => exact ⟨_, runDecoder_next hreach, process_opener rfl rfl (gateTs_of_none s.desc rfl rfl rfl) hwf .one⟩
  case inr.inr.inr.inl =>
    exact ⟨_, runDecoder_next hreach, process_opener rfl hfirst (gateTs_dolphinFields s.desc hfirst) hwf .one⟩
  case inr.inr.inr.inr.inl | inr.inr.inr.inr.inr =>
    exact ⟨_, runDecoder_next hreach, process_opener rfl hfirst (gateTs_ss4TwoFields s.desc hfirst) hwf .two⟩

/-! ### The end of a group -/

/-- A fresh packet's state with the packet stored behind those of its group (40_dispatch.md R105). -/
def storedPacket (cls : PacketClass) (f : Fields) (s : State) : State :=
  { beginPacket cls s with ctx := s.ctx.store s.opnd.pkt f }

/-- A continuation that ends its group stores its packet, closes the group and shows the frame of the merged fields; the pairing
state is the merge's (40_dispatch.md R105). -/
theorem process_cont_ends {s : State} (hwf : s.ctx.mpMem.wf) (ho : s.ctx.mpOpen = true) (hr : s.ctx.mpFill < mpCap)
    (fam : Family) (cls : PacketClass) (f : Fields) (m : Merge) {g : Fields} {x : Ctx}
    (hm : mergeGroup m (storedPacket cls f s) = (g, x)) :
    let t := process fam (.cont f true m) (beginPacket cls s)
    KeepsDevice s t ∧ GroupClosed t ∧ t.ctx.prevFin = s.ctx.prevFin ∧ KeepsPairing { s with ctx := x } t ∧
      StoresEntry s.ctx.mpFill s.opnd.pkt f s t ∧
      ShowsFrame fam { clampFields (gateTs s.desc g) with cls := cls.code } (overFull g) s t := by
  intro t
  have ends : t = frame fam g { storedPacket cls f s with ctx := x.close } := by
    change process fam (.cont f true m) (beginPacket cls s) = _
    rw [process, processCont_stored (s := beginPacket cls s) ho hr]
    change frame fam (mergeGroup m (storedPacket cls f s)).1
      { storedPacket cls f s with ctx := (mergeGroup m (storedPacket cls f s)).2.close } = _
    rw [hm]
  have hctx : t.ctx = x.close := by rw [ends, frame_ctx]
  have kept := mergeGroup_ctx m (storedPacket cls f s)
  rw [hm] at kept
  have prevFin : x.prevFin = s.ctx.prevFin := (congrArg Ctx.prevFin kept :)
  have bytes : x.mpMem = (s.ctx.store s.opnd.pkt f).mpMem := (congrArg Ctx.mpMem kept :)
  have entries : x.mpFields = (s.ctx.store s.opnd.pkt f).mpFields := (congrArg Ctx.mpFields kept :)
  have closed : GroupClosed t := by constructor <;> rw [hctx] <;> rfl
  have pairing : KeepsPairing { s with ctx := x } t := by constructor <;> rw [hctx] <;> rfl
  have entry : StoresEntry s.ctx.mpFill s.opnd.pkt f s t :=
    storesEntry_of_store hwf rfl rfl (by rw [hctx]; exact bytes) (by rw [hctx]; exact entries)
  refine ⟨process_keepsDevice _ _ _ _ (process_fwVersion _ _ _), closed, by rw [hctx]; exact prevFin, pairing, entry, ?_⟩
  rw [ends]
  exact frame_shows_from fam cls g rfl rfl rfl rfl rfl rfl

/-- Masking to an electrode count is the remainder by its power of two. -/
theorem maskBits_eq_mod (v bits : Nat) : maskBits v bits = v % 2 ^ bits := Nat.and_two_pow_sub_one_eq_mod v bits

/-- BITMAP as an operation, on maps and a count as its operands, answers what the merges call. -/
theorem execBitmap_operands (s : State) (xm ym n : Nat) :
    exec .bitmap { s with opnd := { xm := xm, ym := ym, fingers := n } } =
      .next
        { s with
          opnd := { xm := xm, ym := ym, fingers := n }, ctx := (bitmapAt s xm ym n).2
          ret := { s.ret with points := (bitmapAt s xm ym n).1 } } := rfl

/-- BITMAP does not read the stored packets: it gives the same with the packet that ends the group stored. -/
theorem bitmapAt_storedPacket (cls : PacketClass) (f : Fields) (s : State) (xm ym n : Nat) :
    (bitmapAt (storedPacket cls f s) xm ym n).1 = (bitmapAt s xm ym n).1 ∧
      (bitmapAt (storedPacket cls f s) xm ym n).2.bmPrevValid = (bitmapAt s xm ym n).2.bmPrevValid ∧
      (bitmapAt (storedPacket cls f s) xm ym n).2.bmPrev0 = (bitmapAt s xm ym n).2.bmPrev0 ∧
      (bitmapAt (storedPacket cls f s) xm ym n).2.bmPrev1 = (bitmapAt s xm ym n).2.bmPrev1 ∧
      (bitmapAt (storedPacket cls f s) xm ym n).2.bmOrient = (bitmapAt s xm ym n).2.bmOrient :=
  bitmapOf_same _ _ _ _ _ rfl rfl rfl rfl

/-- The fields of a bitmap continuation (41_decoders_v1_v6.md R145, R148, R162). -/
def bitmapPacket (xm ym n : Nat) : Fields := { isMp := true, fingers := n, xMap := xm, yMap := ym, cls := 3 }

/-- The fields a V3, V3R or V5 group merges to: the opener's, with the packet's maps and count and BITMAP's positions
(41_decoders_v1_v6.md R150). -/
def mergedBitmap (e : Fields) (ps : List Pos) (xm ym n : Nat) : Fields :=
  putPoints { e with xMap := xm, yMap := ym, fingers := n, firstMp := false, isMp := false } ps

/-- MERGE_BITMAP where the packet just stored is entry 1. -/
theorem mergeBitmap_storedPacket {s : State} (hfill : s.ctx.mpFill = 1) (xm ym n : Nat) :
    mergeGroup .bitmap (storedPacket .multi (bitmapPacket xm ym n) s) =
      (mergedBitmap s.ctx.mpFields[0] (bitmapAt s xm ym n).1 xm ym n,
       (bitmapAt (storedPacket .multi (bitmapPacket xm ym n) s) xm ym n).2) := by
  have opener : (storedPacket .multi (bitmapPacket xm ym n) s).ctx.mpFields[0] = s.ctx.mpFields[0] := by
    simp [storedPacket, Ctx.store, hfill]
  have last : (storedPacket .multi (bitmapPacket xm ym n) s).ctx.mpFields[1] = bitmapPacket xm ym n := by
    simp [storedPacket, Ctx.store, hfill]
  rw [mergeGroup, mergeBitmap, opener, last, ← (bitmapAt_storedPacket .multi (bitmapPacket xm ym n) s xm ym n).1]
  rfl

/-- What FRAME makes of merged fields: at most five fingers; BITMAP's positions are never too many. -/
theorem clamped_mergedBitmap (d : Descriptor) (e : Fields) {ps : List Pos} (hps : ps.length ≤ 2) (xm ym n : Nat)
    (cls : Nibble) :
    { clampFields (gateTs d (mergedBitmap e ps xm ym n)) with cls := cls } =
      { e with
        mt := Vector.ofFn fun j : Fin 5 => ps.getD j e.mt[j]
        npos := ps.length
        xMap := xm, yMap := ym, fingers := min n 5, firstMp := false, isMp := false
        tsLeft := keptTs d e.tsLeft, tsRight := keptTs d e.tsRight, tsMiddle := keptTs d e.tsMiddle, cls := cls } := by
  obtain ⟨mt, npos⟩ :=
    putPoints_mt { e with xMap := xm, yMap := ym, fingers := n, firstMp := false, isMp := false } ps hps
  have few : min ps.length maxTouches = ps.length := Nat.min_eq_left (hps.trans (by decide))
  rw [gateTs_eq, mergedBitmap, putPoints_eq, mt, npos]
  simp only [clampFields, few]

/-- The frame's capacity condition is that of the packet's finger count. -/
theorem overFull_mergedBitmap (e : Fields) (ps : List Pos) (xm ym n : Nat) :
    overFull (mergedBitmap e ps xm ym n) = decide (5 < n) := by
  rw [mergedBitmap, putPoints_eq]
  rfl

/-- The end of a V3, V3R or V5 group, whatever the family's terms of the maps and the count. -/
theorem process_bitmap_ends {s : State} (hwf : s.ctx.mpMem.wf) (ho : s.ctx.mpOpen = true) (hfill : s.ctx.mpFill = 1)
    (fam : Family) {f : Fields} {xm ym n : Nat} (hf : f = bitmapPacket xm ym n) :
    let e := s.ctx.mpFields[0]
    let t := process fam (.cont f true .bitmap) (beginPacket .multi s)
    ∃ u, exec .bitmap { s with opnd := { xm := xm, ym := ym, fingers := n } } = .next u ∧
      KeepsDevice s t ∧ GroupClosed t ∧ t.ctx.prevFin = s.ctx.prevFin ∧ KeepsPairing u t ∧
      StoresEntry 1 s.opnd.pkt (bitmapPacket xm ym n) s t ∧
      ShowsFrame fam
        { e with
          mt := Vector.ofFn fun j : Fin 5 => u.ret.points.getD j e.mt[j]
          npos := u.ret.points.length
          xMap := xm, yMap := ym, fingers := min n 5, firstMp := false, isMp := false
          tsLeft := keptTs s.desc e.tsLeft, tsRight := keptTs s.desc e.tsRight
          tsMiddle := keptTs s.desc e.tsMiddle, cls := 3 }
        (decide (5 < n)) s t := by
  intro e t
  subst hf
  obtain ⟨-, valid, prev0, prev1, orient⟩ := bitmapAt_storedPacket .multi (bitmapPacket xm ym n) s xm ym n
  obtain ⟨device, closed, prevFin, pairing, entry, shows⟩ :=
    process_cont_ends hwf ho (by rw [hfill]; decide) fam .multi (bitmapPacket xm ym n) .bitmap
      (mergeBitmap_storedPacket hfill xm ym n)
  have few : (bitmapAt s xm ym n).1.length ≤ 2 := bitmapOf_length ..
  rw [clamped_mergedBitmap s.desc _ few, overFull_mergedBitmap] at shows
  rw [hfill] at entry
  exact ⟨_, execBitmap_operands s xm ym n, device, closed, prevFin,
    ⟨pairing.valid.trans valid, pairing.prev0.trans prev0, pairing.prev1.trans prev1, pairing.orient.trans orient⟩, entry,
    shows⟩

/-- What V3 and V3R decode of a continuation. -/
theorem pinnacleMapFields_eq (l : PinnacleLayout) (g : Geometry) (p : List Byte) :
    pinnacleMapFields l g p { cls := 3 } =
      bitmapPacket (field p l.xMap % 2 ^ g.xBits) (field p l.yMap % 2 ^ g.yBits)
        (maxField p l.fingers + l.fingersAdd) := by
  simp only [pinnacleMapFields, maskBits_eq_mod]
  rfl

/-- What V5 decodes of a continuation: the x map stands above the y map in one field. -/
theorem dolphinMapFields_eq (l : DolphinLayout) (g : Geometry) (p : List Byte) :
    dolphinMapFields l g p { cls := 3 } =
      bitmapPacket (field p l.palm / 2 ^ g.yBits % 2 ^ g.xBits) (field p l.palm % 2 ^ g.yBits)
        (field p l.fingers) := by
  simp only [dolphinMapFields, maskBits_eq_mod, Nat.shiftRight_eq_div_pow]
  rfl

/-- Settles O32: each operation decodes to a bitmap continuation with the maps and the count given, which ends the group. -/
theorem bitmapGroupEnds : Obligations.BitmapGroupEnds := by
  intro s hwf ho hfill p L xb yb i fam reach n xm ym hmem hreach e
  have ends {f : Fields} (hf : f = bitmapPacket xm ym n) := process_bitmap_ends hwf ho hfill fam hf
  simp only [List.mem_cons, Prod.mk.injEq, List.not_mem_nil, or_false] at hmem
  rcases hmem with ⟨rfl, rfl, rfl, rfl, rfl, rfl⟩ | ⟨rfl, rfl, rfl, rfl, rfl, rfl⟩ | ⟨rfl, rfl, rfl, rfl, rfl, rfl⟩
  · obtain ⟨u, hu, shows⟩ := ends (pinnacleMapFields_eq L.v3 s.cfg.geom p)
    exact ⟨_, u, runDecoder_next hreach, hu, shows⟩
  · obtain ⟨u, hu, shows⟩ := ends (pinnacleMapFields_eq L.v3r s.cfg.geom p)
    exact ⟨_, u, runDecoder_next hreach, hu, shows⟩
  · obtain ⟨u, hu, shows⟩ := ends (dolphinMapFields_eq L.v5 s.cfg.geom p)
    exact ⟨_, u, runDecoder_next hreach, hu, shows⟩

end Sys2Proof.Machine

/-!
PROOF. The decode rules of V1 to V6 (41_decoders_v1_v6.md), the trackstick rule the later families share, and the refused packets of
V9. As in the section before, each way PROCESS ends is said once for any family and fields (`process_position`, `process_stick`,
`process_cont_stored`); an obligation then reads off what its own operations decode.
-/

namespace Sys2Proof.Machine

/-! ### Refused packets -/

/-- A V9 packet that passes the checks forms the word of class 0, unclassified (40_dispatch.md R95 step 5, assumption 19). -/
theorem fetchPkt_v9 {p : List Byte} {s : State} (hready : s.devState = .ready)
    (hlen : p.length = s.cfg.pktLen.get s.desc.fam) (hbyte : byteAt p 0 &&& s.desc.mask0 = s.desc.byte0)
    (hfam : s.desc.fam = .v9) :
    fetchPkt p s = .run (packetOpsel .v9 0) { freshFields s with opnd := { Operands.none with pkt := p } } := by
  simp only [fetchPkt, hready, hlen, hbyte, hfam, ne_eq, not_true_eq_false, if_false, if_true]

/-- Settles O9: the refusal is what DEC.V9.* is, and a V9 packet's word is DEC.V9.* of class 0. -/
theorem v9IsRefused : Obligations.V9IsRefused := by
  refine ⟨fun _ _ => rfl, fun s p ts hv hin hready hlen hbyte hfam => ?_⟩
  have word := (fetch_of_valid hv hin).trans (fetchPkt_v9 hready hlen hbyte hfam)
  have decodes : decodeOpsel (packetOpsel .v9 0) = .ok (.decV9 0) := decode_packetOpsel (k := .idle) rfl
  exact step_next word decodes rfl

/-! ### Position packets -/

/-- Fields whose counts are in range are not clamped (40_dispatch.md R110, R115). -/
theorem clampFields_of_le {f : Fields} (hf : f.fingers ≤ maxTouches) (hn : f.npos ≤ maxTouches) : clampFields f = f := by
  rw [clampFields, Nat.min_eq_left hf, Nat.min_eq_left hn]

/-- The single-touch count is in range (40_dispatch.md R112). -/
theorem singleFingers_le (z : Nat) : singleFingers z ≤ maxTouches := by
  unfold singleFingers
  split <;> decide

/-- A position packet that opens no group shows the frame of its fields, the trackstick buttons gated; prev_fin is what the decoder
writes, if it writes it (40_dispatch.md R100, R110). -/
theorem process_position {fam : Family} {f g : Fields} (closed : (f.firstMp && hasMp fam) = false)
    (fingers : f.fingers ≤ maxTouches) (npos : f.npos ≤ maxTouches) {cls : PacketClass} (hcls : f.cls = cls.code)
    {s : State} (hg : gateTs s.desc f = g) (w : Option Bool) :
    let t := process fam (.pos f w) (beginPacket cls s)
    KeepsDevice s t ∧ KeepsPairing s t ∧ KeepsBuffer s t ∧ AbandonsGroup s t ∧ t.ctx.prevFin = w.getD s.ctx.prevFin ∧
      ShowsFrame fam g false s t := by
  intro t
  obtain ⟨device, pairing, buffer, group, prevFin, shows⟩ := process_pos_frame fam cls f w s closed
  have full : overFull f = false := decide_eq_false (Nat.not_lt.mpr fingers)
  have clamped : { clampFields (gateTs s.desc f) with cls := cls.code } = g := by
    rw [← hg, clampFields_of_le (by rw [gateTs_eq]; exact fingers) (by rw [gateTs_eq]; exact npos), ← hcls, gateTs_eq]
  rw [clamped, full] at shows
  exact ⟨device, pairing, buffer, group, prevFin, shows⟩

/-- The tap pressure, at the values of ges and fin the layout lists (41_decoders_v1_v6.md R133). -/
theorem absPressure_eq (l : AbsLayout) (p : List Byte) :
    absPressure l p = if (flag p l.ges, flag p l.fin) ∈ l.tapWhen then l.tapZ else field p l.z := by
  simp only [absPressure, tapPressure, List.contains_iff_mem]

/-- The tap-drag edge, at the values of ges, fin and prev_fin the layout lists (41_decoders_v1_v6.md R133). -/
theorem tapDragEdge_eq (l : AbsLayout) (ges fin prevFin : Bool) :
    tapDragEdge l ges fin prevFin = decide ((ges, fin, prevFin) ∈ l.tapDrag) := by
  rw [tapDragEdge, List.contains_eq_mem]

/-- An absolute position packet has no multi-packet flag and at most one finger, and writes prev_fin (41_decoders_v1_v6.md R133). -/
theorem process_abs {fam : Family} (l : AbsLayout) (s : State) {g : Fields}
    (hg : absFields l s.opnd.pkt s.ctx.prevFin { cls := 1 } = g) :
    let t := process fam (decodeAbs l (beginPacket .one s)) (beginPacket .one s)
    KeepsDevice s t ∧ KeepsPairing s t ∧ KeepsBuffer s t ∧ AbandonsGroup s t ∧
      t.ctx.prevFin = flag s.opnd.pkt l.fin ∧ ShowsFrame fam g false s t :=
  process_position rfl (singleFingers_le _) (Nat.zero_le _) rfl ((gateTs_of_none _ rfl rfl rfl).trans hg)
    (some (flag s.opnd.pkt l.fin))

/-- Settles O24: both operations decode by the layout they are given, which writes prev_fin. -/
theorem absolutePositionPacket : Obligations.AbsolutePositionPacket := by
  intro s i fam l hmem hreach p z
  have decoded : absFields l p s.ctx.prevFin { cls := 1 } =
      { st := ⟨field p l.x, field p l.y⟩, pressure := z, fingers := if 0 < z then 1 else 0
        left := flag p l.left, right := flag p l.right, middle := flag p l.middle
        ges := flag p l.ges, fin := flag p l.fin
        tapDrag := decide ((flag p l.ges, flag p l.fin, s.ctx.prevFin) ∈ l.tapDrag), cls := 1 } := by
    simp only [absFields, absPressure_eq, tapDragEdge_eq]
    rfl
  simp only [List.mem_cons, Prod.mk.injEq, List.not_mem_nil, or_false] at hmem
  rcases hmem with ⟨rfl, rfl, rfl⟩ | ⟨rfl, rfl, rfl⟩ <;>
    exact ⟨_, runDecoder_next hreach, process_abs _ s decoded⟩

/-- What V3 and V3R decode of a packet that opens no group, gated: an opener's fields but for first_mp. -/
theorem gateTs_pinnacleFields_closed (d : Descriptor) {l : PinnacleLayout} {p : List Byte} (h : flag p l.firstMp = false) :
    gateTs d (pinnacleFields l p { cls := 1 }) =
      { singleOpener d p l.stX l.stY (field p l.pressure) l.buttons with firstMp := false } := by
  rw [gateTs_eq]
  simp only [pinnacleFields, putButtons, h]
  rfl

/-- What V5 decodes of a packet that opens no group, gated: an opener's fields but for first_mp. -/
theorem gateTs_dolphinFields_closed (d : Descriptor) {l : DolphinLayout} {p : List Byte} (h : flag p l.firstMp = false) :
    gateTs d (dolphinFields l p { cls := 1 }) =
      { singleOpener d p l.stX l.stY (dolphinPressure l p) l.buttons with firstMp := false } := by
  rw [gateTs_eq]
  simp only [dolphinFields, putButtons, h]
  rfl

/-- Settles O25: both operations decode a packet without first_mp to a position that opens no group. -/
theorem pinnaclePositionPacket : Obligations.PinnaclePositionPacket := by
  intro s i fam l hmem hreach hfirst p
  have closed (fam : Family) : ((pinnacleFields l p { cls := 1 }).firstMp && hasMp fam) = false :=
    Bool.and_eq_false_imp.mpr fun h => absurd (hfirst.symm.trans h) (by decide)
  have ends (fam : Family) := process_position (closed fam) (singleFingers_le _) (Nat.zero_le _)
    (cls := .one) rfl (gateTs_pinnacleFields_closed s.desc hfirst) none
  simp only [List.mem_cons, Prod.mk.injEq, List.not_mem_nil, or_false] at hmem
  rcases hmem with ⟨rfl, rfl, rfl⟩ | ⟨rfl, rfl, rfl⟩ <;>
    exact ⟨_, runDecoder_next hreach, ends _⟩

/-- Settles O26: DEC.V5.ONE decodes a packet without first_mp to a position that opens no group. -/
theorem dolphinPositionPacket : Obligations.DolphinPositionPacket := by
  intro s hreach hfirst p l z
  have closed : ((dolphinFields l p { cls := 1 }).firstMp && hasMp .v5) = false :=
    Bool.and_eq_false_imp.mpr fun h => absurd (hfirst.symm.trans h) (by decide)
  exact ⟨_, runDecoder_next hreach, process_position closed (singleFingers_le _) (Nat.zero_le _) rfl
    (gateTs_dolphinFields_closed s.desc hfirst) none⟩

/-- Settles O27: DEC.V6.ONE decodes to a position without multi-packet flag or trackstick buttons. -/
theorem v6PositionPacket : Obligations.V6PositionPacket := by
  intro s hreach p l
  exact ⟨_, runDecoder_next hreach, process_position rfl (singleFingers_le _) (Nat.zero_le _) rfl
    (gateTs_of_none _ rfl rfl rfl) none⟩

/-! ### Trackstick packets -/

/-- What a stick packet shows depends on the state before only through the pool and the report. -/
theorem ShowsStick.of_same {g : Fields} {s s' t : State} (h : ShowsStick g s t) (hv : s'.vf = s.vf)
    (hr : s'.report = s.report) : ShowsStick g s' t := by
  obtain ⟨fields, pool, status, touches, fingers, tpButtons, tsButtons, stick, tapDrag⟩ := h
  exact ⟨fields, pool.trans hv.symm, status, hv ▸ touches, fingers, hr ▸ tpButtons, tsButtons, stick, tapDrag⟩

/-- A stick packet abandons an open group and shows its fields; the tracker does not step (40_dispatch.md R100, R111). -/
theorem process_stick (fam : Family) {cls : PacketClass} {f g : Fields} (hf : f = g) (hcls : g.cls = cls.code) (s : State) :
    let t := process fam (.stick f) (beginPacket cls s)
    KeepsDevice s t ∧ KeepsPairing s t ∧ KeepsBuffer s t ∧ AbandonsGroup s t ∧ t.ctx.prevFin = s.ctx.prevFin ∧
      ShowsStick g s t := by
  subst hf
  intro t
  have hctx : t.ctx = { (abandon (beginPacket cls s)).ctx with prevFin := s.ctx.prevFin } := by
    rw [show t.ctx = _ from processStick_ctx _ _ _, abandon_ctx_kept]
    rfl
  obtain ⟨pairing, buffer, group, prevFin⟩ := context_after_abandon hctx
  have shows := processStick_shows fam f (s := abandon (beginPacket cls s)) (abandon_status _)
  rw [abandon_fields, beginPacket_fields, ← hcls] at shows
  exact ⟨process_keepsDevice _ _ _ _ (process_fwVersion _ _ _), pairing, buffer, group, prevFin,
    shows.of_same (by simp) (by simp)⟩

/-- A stick packet no sanity test rejects decodes on a device with DUALPOINT (41_decoders_v1_v6.md R137, R146). -/
theorem decodeStick_stick {l : StickLayout} {s : State} (hdual : .dualpoint ∈ s.desc.caps)
    (hpass : l.reject.any (passesAll s.opnd.pkt) = false) :
    decodeStick l s = .stick (stickFields l s.opnd.pkt s.fields) := by
  have has : s.desc.has .dualpoint = true := List.contains_iff_mem.mpr hdual
  rw [decodeStick, if_pos has, hpass]
  rfl

/-- Settles O40: the six operations run the shared stick rule over their own layouts. -/
theorem trackstickPackets : Obligations.TrackstickPackets := by
  intro s i reach l hmem hreach hdual hpass p v w
  have decodes : decodeStick l (beginPacket .stick s) = .stick (stickFields l p { cls := 5 }) :=
    decodeStick_stick (s := beginPacket .stick s) hdual hpass
  have ends (fam : Family) := process_stick fam (cls := .stick) (f := stickFields l p { cls := 5 }) rfl rfl s
  have runs {fam : Family} (hr : s.cfg.layouts.reach fam ≤ p.length) :
      runDecoder fam .stick (decodeStick l) s =
        .next (process fam (.stick (stickFields l p { cls := 5 })) (beginPacket .stick s)) := by
    rw [runDecoder_next hr, decodes]
  simp only [List.mem_cons, Prod.mk.injEq, List.not_mem_nil, or_false] at hmem
  rcases hmem with ⟨rfl, rfl, rfl⟩ | ⟨rfl, rfl, rfl⟩ | ⟨rfl, rfl, rfl⟩ | ⟨rfl, rfl, rfl⟩ | ⟨rfl, rfl, rfl⟩ |
    ⟨rfl, rfl, rfl⟩ <;>
    exact ⟨_, runs hreach, ends _⟩

/-- The wrap of a relative delta, over the integers (41_decoders_v1_v6.md R134). -/
theorem wrapDelta_eq (v above span : Nat) :
    wrapDelta v above span = if (v : Int) > above then (v : Int) - span else v :=
  if_congr Int.ofNat_lt.symm rfl rfl

/-- Settles O41: both operations decode to stick fields, whatever the device. -/
theorem relativeStickPackets : Obligations.RelativeStickPackets := by
  intro s i l hmem hreach p x y
  have decoded : absStickFields l p { cls := 5 } =
      { stickDx := if x > l.dxAbove then x - l.dxSpan else x, stickDy := -(if y > l.dyAbove then y - l.dySpan else y)
        stickZ := field p l.stickZ
        tsLeft := flag p l.left, tsRight := flag p l.right, tsMiddle := flag p l.middle, cls := 5 } := by
    simp only [absStickFields, wrapDelta_eq]
    rfl
  have ends (fam : Family) := process_stick fam (cls := .stick) decoded rfl s
  simp only [List.mem_cons, Prod.mk.injEq, List.not_mem_nil, or_false] at hmem
  rcases hmem with ⟨rfl, rfl⟩ | ⟨rfl, rfl⟩
  · exact ⟨_, runDecoder_next (fam := .v1) hreach, ends .v1⟩
  · exact ⟨_, runDecoder_next (fam := .v2) hreach, ends .v2⟩

/-! ### The packets of a V4 group -/

/-- A continuation that does not end its group is stored behind the packets before it and shows nothing (40_dispatch.md R105). -/
theorem process_cont_stored {s : State} (hwf : s.ctx.mpMem.wf) (ho : s.ctx.mpOpen = true) (hr : s.ctx.mpFill < mpCap)
    (fam : Family) (cls : PacketClass) (f : Fields) (m : Merge) :
    let t := process fam (.cont f false m) (beginPacket cls s)
    KeepsDevice s t ∧ KeepsPairing s t ∧ StaysSilent s t ∧ t.ctx.prevFin = s.ctx.prevFin ∧ t.fields = { cls := cls.code } ∧
      t.ctx.mpOpen = true ∧ t.ctx.mpFill = s.ctx.mpFill + 1 ∧ StoresEntry s.ctx.mpFill s.opnd.pkt f s t := by
  intro t
  have device : KeepsDevice s t := process_keepsDevice _ _ _ _ (process_fwVersion _ _ _)
  have stored : t = storedPacket cls f s := processCont_stored (s := beginPacket cls s) ho hr
  rw [stored] at device ⊢
  exact ⟨device, ⟨rfl, rfl, rfl, rfl⟩, ⟨rfl, rfl, rfl⟩, rfl, rfl, ho, rfl, storesEntry_of_store hwf rfl rfl rfl rfl⟩

/-- DEC.V4.MULTI decodes to a continuation, the last one of its group behind two stored packets (41_decoders_v1_v6.md R153). -/
theorem exec_decV4Multi {s : State} (hreach : s.cfg.layouts.v4.reach ≤ s.opnd.pkt.length) {last : Bool}
    (hlast : decide (s.ctx.mpFill = 2) = last) :
    exec .decV4Multi s =
      .next (process .v4 (.cont (v4Fields s.cfg.layouts.v4 s.opnd.pkt false { cls := 3 }) last .v4)
        (beginPacket .multi s)) := by
  rw [← hlast]
  exact runDecoder_next (fam := .v4) hreach

/-- Settles O33: with fewer than two packets stored the continuation is not the last. -/
theorem v4ContinuationIsStored : Obligations.V4ContinuationIsStored := by
  intro s hwf ho hfill hreach p l
  have room : s.ctx.mpFill < mpCap := hfill.trans (by decide)
  exact ⟨_, exec_decV4Multi hreach (decide_eq_false hfill.ne), process_cont_stored hwf ho room .v4 .multi _ .v4⟩

/-- The greatest of a list of reaches is no less than any of them. -/
theorem le_maxOf {n : Nat} {ns : List Nat} (h : n ∈ ns) : n ≤ maxOf ns := by
  induction ns with
  | nil => exact absurd h List.not_mem_nil
  | cons m ms ih =>
    rw [maxOf]
    rcases List.mem_cons.mp h with rfl | h
    · exact Nat.le_max_left ..
    · exact (ih h).trans (Nat.le_max_right ..)

/-- A map byte stands within the reach of the layout (41_decoders_v1_v6.md R154, 20_memory.md R51). -/
theorem mapByte_lt_reach {l : V4Layout} {k : Nat} (h : k ∈ l.mapBytes) : k < l.reach :=
  le_maxOf (List.mem_append_right _ (List.mem_map_of_mem h))

/-- The bitmap bytes of a group whose last packet has just been stored as entry 2: those of the entries before it stand, its own
are the packet's (41_decoders_v1_v6.md R154). -/
theorem v4MapBytes_store {c : Ctx} (hwf : c.mpMem.wf) (hfill : c.mpFill = 2) (l : V4Layout)
    (hbytes : ∀ k ∈ l.mapBytes, k < pktMax) (p : List Byte) (f : Fields) :
    v4MapBytes l (c.store p f).mpMem =
      l.mapBytes.map (fun k => c.mpMem.read (mpAddr 0 k)) ++ l.mapBytes.map (fun k => c.mpMem.read (mpAddr 1 k)) ++
        l.mapBytes.map (byteAt p) := by
  have before {j : Nat} (hj : j < 2) (k : Nat) (hk : k ∈ l.mapBytes) :
      entryByte (c.store p f).mpMem j k = c.mpMem.read (mpAddr j k) := by
    refine Ctx.store_read_other hwf p f (.inl ?_)
    have := hbytes k hk
    simp only [mpAddr, hfill, pktMax] at this ⊢
    omega
  have own (k : Nat) (hk : k ∈ l.mapBytes) : entryByte (c.store p f).mpMem 2 k = byteAt p k :=
    hfill ▸ Ctx.store_read_same hwf p f (hbytes k hk)
  rw [v4MapBytes, List.map_congr_left (before (by decide)), List.map_congr_left (before (by decide)),
    List.map_congr_left own]

/-- MERGE_V4 merges entry 2 with the maps the group's bytes give, their greater run count and BITMAP's positions
(41_decoders_v1_v6.md R154). -/
theorem mergeV4_eq {s : State} {b : List Byte} (hb : v4MapBytes s.cfg.layouts.v4 s.ctx.mpMem = b) :
    let xm := field b s.cfg.layouts.v4.xMap % 2 ^ s.cfg.geom.xBits
    let ym := field b s.cfg.layouts.v4.yMap % 2 ^ s.cfg.geom.yBits
    let n := max (runs s.cfg.geom.xBits xm) (runs s.cfg.geom.yBits ym)
    mergeV4 s = (mergedBitmap s.ctx.mpFields[2] (bitmapAt s xm ym n).1 xm ym n, (bitmapAt s xm ym n).2) := by
  subst hb
  simp only [mergeV4, maskBits_eq_mod]
  rfl

/-- MERGE_V4 where the packet just stored is entry 2. -/
theorem mergeV4_storedPacket {s : State} (hwf : s.ctx.mpMem.wf) (hfill : s.ctx.mpFill = 2)
    (hbytes : ∀ k ∈ s.cfg.layouts.v4.mapBytes, k < pktMax) (f : Fields) :
    let l := s.cfg.layouts.v4
    let b := l.mapBytes.map (fun k => s.ctx.mpMem.read (mpAddr 0 k)) ++
      l.mapBytes.map (fun k => s.ctx.mpMem.read (mpAddr 1 k)) ++ l.mapBytes.map (byteAt s.opnd.pkt)
    let xm := field b l.xMap % 2 ^ s.cfg.geom.xBits
    let ym := field b l.yMap % 2 ^ s.cfg.geom.yBits
    let n := max (runs s.cfg.geom.xBits xm) (runs s.cfg.geom.yBits ym)
    mergeGroup .v4 (storedPacket .multi f s) =
      (mergedBitmap f (bitmapAt s xm ym n).1 xm ym n, (bitmapAt (storedPacket .multi f s) xm ym n).2) := by
  intro l b xm ym n
  have merged := mergeV4_eq (s := storedPacket .multi f s) (v4MapBytes_store hwf hfill l hbytes s.opnd.pkt f)
  have last : (storedPacket .multi f s).ctx.mpFields[2] = f := by
    simp [storedPacket, Ctx.store, hfill]
  rw [last] at merged
  rw [← (bitmapAt_storedPacket .multi f s xm ym n).1]
  exact merged

/-- Settles O34: the third packet ends its group with MERGE_V4's fields, which carry no trackstick button and no position but
BITMAP's. -/
theorem v4GroupEnds : Obligations.V4GroupEnds := by
  intro s hwf ho hfill hreach hlen p l b xm ym f
  refine ⟨_, _, runs_counts _ xm, runs_counts _ ym, ?_⟩
  intro n
  have hbytes : ∀ k ∈ l.mapBytes, k < pktMax := fun k hk => ((mapByte_lt_reach hk).trans_le hreach).trans_le hlen
  have last := exec_decV4Multi hreach (decide_eq_true hfill)
  obtain ⟨device, closed, prevFin, pairing, entry, shows⟩ :=
    process_cont_ends hwf ho (by rw [hfill]; decide) .v4 .multi f .v4 (mergeV4_storedPacket hwf hfill hbytes f)
  obtain ⟨-, valid, prev0, prev1, orient⟩ := bitmapAt_storedPacket .multi f s xm ym n
  have few : (bitmapAt s xm ym n).1.length ≤ 2 := bitmapOf_length ..
  rw [hfill] at entry
  rw [clamped_mergedBitmap s.desc _ few, overFull_mergedBitmap] at shows
  refine ⟨_, _, last, execBitmap_operands s xm ym n, device, closed, prevFin,
    ⟨pairing.valid.trans valid, pairing.prev0.trans prev0, pairing.prev1.trans prev1, pairing.orient.trans orient⟩, entry, ?_⟩
  have noPosition (j : Fin 5) : f.mt[j] = ⟨0, 0⟩ := Vector.getElem_replicate _
  have left : keptTs s.desc f.tsLeft = false := Bool.and_false _
  have right : keptTs s.desc f.tsRight = false := Bool.and_false _
  have middle : keptTs s.desc f.tsMiddle = false := Bool.and_false _
  simp only [noPosition, left, right, middle] at shows
  exact shows

end Sys2Proof.Machine

/-!
PROOF. The reference layouts of V1 to V6 and of the trackstick packets as arithmetic on the packet's bytes (41_decoders_v1_v6.md,
42_decoders_v7_ss4.md). A layout term takes a run of bits of one byte and puts it at a place of the field (`BitRun`); where no two
runs of a field land on one bit, the field is the sum of its runs (`field_eq_sum`). Where the top bit of a low byte shares its place
with the lowest bit above it, the two are OR-ed (`field_extended`).
-/

namespace Sys2Proof.Machine

/-! ### Runs of bits -/

/-- A layout term whose mask is a run of bits: `width` bits of byte `byte` from bit `low` on, which land from bit `place` of the
field on: ⟨byte, low, width, place⟩ below. -/
structure BitRun where
  byte : Nat
  low : Nat
  width : Nat
  place : Nat

/-- The layout term of a run (00_scope.md R13). -/
def BitRun.term (r : BitRun) : Term := ⟨r.byte, BitVec.ofNat 8 (2 ^ r.low * (2 ^ r.width - 1)), (r.place : Int) - r.low⟩

/-- What a run adds to its field. -/
def BitRun.value (p : List Byte) (r : BitRun) : Nat := 2 ^ r.place * ((byteAt p r.byte).toNat / 2 ^ r.low % 2 ^ r.width)

/-- The run stands within its byte. -/
abbrev BitRun.Fits (r : BitRun) : Prop := r.low + r.width ≤ 8

/-- Two runs land on different bits of the field. -/
abbrev BitRun.Apart (r q : BitRun) : Prop := r.place + r.width ≤ q.place ∨ q.place + q.width ≤ r.place

/-- A mask that is a run of bits selects them. -/
theorem and_run_eq (n low width : Nat) : n &&& 2 ^ low * (2 ^ width - 1) = 2 ^ low * (n / 2 ^ low % 2 ^ width) := by
  apply Nat.eq_of_testBit_eq
  intro i
  rw [Nat.testBit_and, Nat.testBit_two_pow_mul, Nat.testBit_two_pow_mul, Nat.testBit_two_pow_sub_one, Nat.testBit_mod_two_pow,
    Nat.testBit_div_two_pow]
  by_cases h : low ≤ i
  · simp [h, Bool.and_comm]
  · simp [h]

/-- Moving a run from its low bit to its place. -/
theorem shift_run_eq (n low place : Nat) : shift (2 ^ low * n) ((place : Int) - low) = 2 ^ place * n := by
  rw [shift]
  split
  · next up =>
    rw [show ((place : Int) - low).toNat = place - low by omega, Nat.shiftLeft_eq, Nat.mul_right_comm, ← Nat.pow_add,
      Nat.add_sub_cancel' (by omega)]
  · next down =>
    rw [show (-((place : Int) - low)).toNat = low - place by omega, Nat.shiftRight_eq_div_pow,
      show 2 ^ low = 2 ^ (low - place) * 2 ^ place by rw [← Nat.pow_add, Nat.sub_add_cancel (by omega)], Nat.mul_assoc,
      Nat.mul_div_cancel_left _ (Nat.two_pow_pos _)]

/-- The term of a run reads its value. -/
theorem termValue_run (p : List Byte) {r : BitRun} (h : r.Fits) : termValue p r.term = r.value p := by
  have mask : 2 ^ r.low * (2 ^ r.width - 1) < 2 ^ 8 :=
    calc 2 ^ r.low * (2 ^ r.width - 1) < 2 ^ r.low * 2 ^ r.width :=
          Nat.mul_lt_mul_of_pos_left (Nat.sub_lt (Nat.two_pow_pos _) Nat.one_pos) (Nat.two_pow_pos _)
      _ = 2 ^ (r.low + r.width) := (Nat.pow_add ..).symm
      _ ≤ 2 ^ 8 := Nat.pow_le_pow_right Nat.two_pos h
  rw [termValue, BitRun.term, BitVec.toNat_and, BitVec.toNat_ofNat, Nat.mod_eq_of_lt mask, and_run_eq, shift_run_eq]
  rfl

/-- The bits of a run's value stand at its place. -/
theorem BitRun.value_testBit {p : List Byte} {r : BitRun} {i : Nat} (h : (r.value p).testBit i = true) :
    r.place ≤ i ∧ i < r.place + r.width := by
  rw [BitRun.value, Nat.testBit_two_pow_mul, Nat.testBit_mod_two_pow] at h
  simp only [Bool.and_eq_true, decide_eq_true_eq] at h
  omega

/-- Numbers with no common bit are OR-ed by adding them. -/
theorem or_eq_add_of_and_eq_zero {a b : Nat} (h : a &&& b = 0) : a ||| b = a + b := by
  induction a using Nat.strongRec generalizing b with
  | ind a ih =>
    rcases Nat.eq_zero_or_pos a with rfl | pos
    · rw [Nat.zero_or, Nat.zero_add]
    · have high : (a ||| b) / 2 = a / 2 + b / 2 := by
        rw [Nat.or_div_two, ih (a / 2) (by omega) (by rw [← Nat.and_div_two, h])]
      have low : (a ||| b) % 2 = a % 2 + b % 2 := by
        have apart : a % 2 * (b % 2) = 0 := by rw [← and_mod_two, h]
        have either := Nat.or_mod_two_pow (a := a) (b := b) (n := 1)
        rcases Nat.mod_two_eq_zero_or_one a with ha | ha <;> rcases Nat.mod_two_eq_zero_or_one b with hb | hb <;>
          simp_all
      omega

/-- A bit of a field is a bit of one of its runs. -/
theorem field_testBit {p : List Byte} {rs : List BitRun} (fits : ∀ r ∈ rs, r.Fits) {i : Nat}
    (h : (field p (rs.map BitRun.term)).testBit i = true) : ∃ r ∈ rs, r.place ≤ i ∧ i < r.place + r.width := by
  induction rs with
  | nil => simp [field] at h
  | cons r rs ih =>
    obtain ⟨fit, rest⟩ := List.forall_mem_cons.mp fits
    rw [List.map_cons, field, termValue_run p fit, Nat.testBit_or, Bool.or_eq_true] at h
    rcases h with h | h
    · exact ⟨r, List.mem_cons_self .., BitRun.value_testBit h⟩
    · obtain ⟨q, hq, place⟩ := ih rest h
      exact ⟨q, List.mem_cons_of_mem _ hq, place⟩

/-- A field whose terms are runs on different bits is their sum. Of runs that are numbers the conditions are computed, and the sum
is compared with what a statement says it is. -/
theorem field_eq_sum (p : List Byte) {ts : Terms} {n : Nat} (rs : List BitRun) (hts : ts = rs.map BitRun.term := by rfl)
    (fits : ∀ r ∈ rs, r.Fits := by decide) (apart : rs.Pairwise BitRun.Apart := by decide)
    (sum : (rs.map (BitRun.value p)).sum = n := by
      simp only [BitRun.value, List.map_cons, List.map_nil, List.sum_cons, List.sum_nil]
      omega) :
    field p ts = n := by
  subst hts sum
  induction rs with
  | nil => rfl
  | cons r rs ih =>
    obtain ⟨fit, rest⟩ := List.forall_mem_cons.mp fits
    obtain ⟨others, restApart⟩ := List.pairwise_cons.mp apart
    have noCommon : r.value p &&& field p (rs.map BitRun.term) = 0 := by
      apply Nat.eq_of_testBit_eq
      intro i
      rw [Nat.zero_testBit, Nat.testBit_and, Bool.and_eq_false_imp, ← Bool.not_eq_true]
      intro own other
      obtain ⟨q, hq, place⟩ := field_testBit rest other
      have ownPlace := BitRun.value_testBit own
      rcases others q hq with below | above <;> omega
    rw [List.map_cons, field, termValue_run p fit, or_eq_add_of_and_eq_zero noCommon, ih rest restApart, List.map_cons,
      List.sum_cons]

/-- A flag that is one bit of a byte. -/
theorem flag_eq_bit (p : List Byte) {ts : Terms} (k i : Nat) (hts : ts = [BitRun.term ⟨k, i, 1, 0⟩] := by rfl)
    (hi : i + 1 ≤ 8 := by decide) : flag p ts = decide ((byteAt p k).toNat / 2 ^ i % 2 = 1) := by
  rw [flag, field_eq_sum p [⟨k, i, 1, 0⟩] hts (by simpa using hi) (List.pairwise_singleton ..) rfl, Nat.testBit_zero]
  simp [BitRun.value]

/-- A flag that is the lowest bit of a byte. -/
theorem flag_eq_low_bit (p : List Byte) {ts : Terms} (k : Nat) (hts : ts = [BitRun.term ⟨k, 0, 1, 0⟩] := by rfl) :
    flag p ts = decide ((byteAt p k).toNat % 2 = 1) := by
  rw [flag_eq_bit p k 0 hts, Nat.pow_zero, Nat.div_one]

/-- A number OR-ed with bits from bit `i` on: those below stand, those above are OR-ed. -/
theorem or_two_pow_mul (a c i : Nat) : a ||| 2 ^ i * c = a % 2 ^ i + 2 ^ i * (a / 2 ^ i ||| c) := by
  have low : (a ||| 2 ^ i * c) % 2 ^ i = a % 2 ^ i := by
    rw [Nat.or_mod_two_pow, Nat.mul_mod_right, Nat.or_zero]
  have high : (a ||| 2 ^ i * c) / 2 ^ i = a / 2 ^ i ||| c := by
    rw [Nat.or_div_two_pow, Nat.mul_div_cancel_left _ (Nat.two_pow_pos i)]
  rw [← low, ← high, Nat.mod_add_div]

/-- A byte extended by a run from its top bit on, which the byte's top bit and the run's lowest share (R132, R170, R172). -/
theorem field_extended (p : List Byte) {ts : Terms} {n : Nat} (k j low width : Nat)
    (hts : ts = [BitRun.term ⟨k, 0, 8, 0⟩, BitRun.term ⟨j, low, width, 7⟩] := by rfl)
    (fits : low + width ≤ 8 := by decide) (high : (byteAt p j).toNat / 2 ^ low % 2 ^ width = n := by omega) :
    field p ts = (byteAt p k).toNat % 128 + 128 * ((byteAt p k).toNat / 128 ||| n) := by
  have byte : BitRun.value p ⟨k, 0, 8, 0⟩ = (byteAt p k).toNat := by
    simp [BitRun.value, Nat.mod_eq_of_lt (byteAt p k).isLt]
  subst hts high
  rw [field, field, field, termValue_run p (r := ⟨k, 0, 8, 0⟩) (Nat.le_refl 8), termValue_run p fits, byte, Nat.or_zero]
  exact or_two_pow_mul _ _ 7

/-! ### Position packets -/

/-- Settles O54: which bits of which byte each term of the two layouts reads. -/
theorem referenceLayoutV1V2 : Obligations.ReferenceLayoutV1V2 := by
  intro p
  dsimp only
  refine ⟨?constants, field_extended p 1 0 0 3, field_extended p 4 3 0 3, field_eq_sum p [⟨5, 0, 8, 0⟩],
    flag_eq_bit p 2 4, flag_eq_bit p 2 3, Nat.zero_testBit 0, flag_eq_low_bit p 2, flag_eq_bit p 2 1,
    field_extended p 1 2 3 4, field_extended p 4 3 4 3, field_eq_sum p [⟨5, 0, 8, 0⟩],
    flag_eq_low_bit p 3, flag_eq_bit p 3 1, flag_eq_bit p 3 2, flag_eq_low_bit p 2, flag_eq_bit p 2 1⟩
  case constants => rintro l (rfl | rfl) <;> exact ⟨by decide, rfl, by decide, rfl, rfl, rfl, rfl, rfl⟩

/-- Settles O55: which bits of which byte each term of the two layouts reads. -/
theorem referenceLayoutV3 : Obligations.ReferenceLayoutV3 := by
  intro p
  dsimp only
  refine ⟨?position, ?fingers, ?moreFingers,
    field_eq_sum p [⟨4, 1, 6, 9⟩, ⟨1, 0, 7, 2⟩, ⟨0, 4, 2, 0⟩],
    field_eq_sum p [⟨3, 4, 3, 8⟩, ⟨2, 0, 7, 1⟩, ⟨4, 0, 1, 0⟩],
    field_eq_sum p [⟨4, 1, 6, 9⟩, ⟨1, 0, 7, 2⟩, ⟨0, 4, 2, 0⟩, ⟨5, 4, 1, 15⟩],
    field_eq_sum p [⟨3, 4, 3, 8⟩, ⟨2, 0, 7, 1⟩, ⟨4, 0, 1, 0⟩, ⟨5, 5, 1, 11⟩]⟩
  case position =>
    rintro l (rfl | rfl) <;>
      exact ⟨field_eq_sum p [⟨1, 0, 7, 4⟩, ⟨4, 4, 2, 2⟩, ⟨0, 4, 2, 0⟩], field_eq_sum p [⟨2, 0, 7, 4⟩, ⟨4, 0, 4, 0⟩],
        field_eq_sum p [⟨5, 0, 7, 0⟩], flag_eq_bit p 4 6, flag_eq_low_bit p 3, flag_eq_bit p 3 1, flag_eq_bit p 3 2,
        flag_eq_bit p 3 4, flag_eq_bit p 3 5, flag_eq_bit p 3 6⟩
  case fingers =>
    rw [show maxField p Reference.v3.fingers = max _ 0 from rfl, Nat.max_zero]
    exact congrArg (· + 1) (field_eq_sum p [⟨5, 0, 2, 0⟩])
  case moreFingers =>
    rw [show maxField p Reference.v3r.fingers = max _ (max _ 0) from rfl, Nat.max_zero]
    exact congrArg (· + 1) (congrArg₂ max (field_eq_sum p [⟨5, 0, 2, 0⟩]) (field_eq_sum p [⟨5, 2, 2, 0⟩]))

/-- Settles O56: which bits of which byte each term of the three layouts reads. -/
theorem referenceLayoutV4V5V6 : Obligations.ReferenceLayoutV4V5V6 := by
  intro p
  dsimp only
  refine ⟨?v4X, ?v4Y, ?v4Z, flag_eq_low_bit p 4, flag_eq_bit p 4 1, rfl, ?v4XMap, ?v4YMap,
    field_extended p 1 3 3 4, field_extended p 2 4 3 4, field_eq_sum p [⟨5, 0, 8, 0⟩], flag_eq_low_bit p 3, flag_eq_bit p 3 1,
    flag_eq_bit p 0 1, ?v5X, ?v5Y, ?v5Z, ?noTouch, rfl, ?v5Fingers, ?palm⟩
  case v4X => exact field_eq_sum p [⟨1, 0, 7, 4⟩, ⟨3, 4, 2, 2⟩, ⟨0, 4, 2, 0⟩]
  case v4Y => exact field_eq_sum p [⟨2, 0, 7, 4⟩, ⟨3, 0, 4, 0⟩]
  case v4Z => exact field_eq_sum p [⟨5, 0, 7, 0⟩]
  case v4XMap => exact field_eq_sum p [⟨2, 0, 5, 10⟩, ⟨3, 5, 2, 8⟩, ⟨0, 0, 6, 2⟩, ⟨1, 5, 2, 0⟩]
  case v4YMap => exact field_eq_sum p [⟨5, 0, 1, 10⟩, ⟨3, 0, 5, 5⟩, ⟨1, 0, 5, 0⟩]
  case v5X => exact field_eq_sum p [⟨1, 0, 7, 0⟩, ⟨4, 0, 4, 7⟩]
  case v5Y => exact field_eq_sum p [⟨2, 0, 7, 0⟩, ⟨4, 4, 4, 7⟩]
  case v5Z => exact field_eq_sum p [⟨5, 0, 7, 0⟩]
  case noTouch =>
    rw [Bool.eq_iff_iff, decide_eq_true_iff]
    simp [Reference.v5, masked_eq_iff _ 0x04#8, andBits]
    omega
  case v5Fingers => exact field_eq_sum p [⟨0, 1, 2, 0⟩, ⟨0, 4, 1, 2⟩]
  case palm =>
    exact field_eq_sum p
      [⟨1, 0, 7, 0⟩, ⟨2, 0, 7, 7⟩, ⟨4, 0, 7, 14⟩, ⟨5, 0, 7, 21⟩, ⟨3, 0, 3, 28⟩, ⟨3, 4, 3, 31⟩, ⟨0, 0, 1, 34⟩]

/-! ### Trackstick packets -/

/-- A term whose mask is put together from two. -/
theorem field_split (p : List Byte) (k : Nat) (m n : Byte) (s : Int) (ts : Terms) :
    field p (⟨k, m ||| n, s⟩ :: ts) = field p (⟨k, m, s⟩ :: ⟨k, n, s⟩ :: ts) := by
  have moved (v w : Nat) : shift (v ||| w) s = shift v s ||| shift w s := by
    unfold shift
    split
    · exact Nat.shiftLeft_or_distrib
    · exact Nat.shiftRight_or_distrib
  simp only [field, termValue, BitVec.toNat_and, BitVec.toNat_or, Nat.and_or_distrib_left, moved, Nat.or_assoc]

/-- A delta of eight bits, sign-extended (00_scope.md R12). -/
theorem delta_eq {v n : Nat} {d : Int} (hv : v = n) (hn : n < 256 := by omega)
    (sext : (n : Int) - 256 * (n / 128 : Nat) = d := by omega) : (BitVec.ofNat 8 v).toInt = d := by
  subst hv
  rw [BitVec.toInt_eq_toNat_cond, BitVec.toNat_ofNat, Nat.mod_eq_of_lt hn]
  split <;> omega

/-- A delta whose terms are runs on different bits, perhaps only once a mask is split. -/
theorem delta_eq_sum (p : List Byte) {ts : Terms} {d : Int} (rs : List BitRun)
    (reads : field p ts = field p (rs.map BitRun.term) := by rfl) (fits : ∀ r ∈ rs, r.Fits := by decide)
    (apart : rs.Pairwise BitRun.Apart := by decide)
    (small : (rs.map (BitRun.value p)).sum < 256 := by
      simp only [BitRun.value, List.map_cons, List.map_nil, List.sum_cons, List.sum_nil]
      omega)
    (sext : ((rs.map (BitRun.value p)).sum : Int) - 256 * ((rs.map (BitRun.value p)).sum / 128 : Nat) = d := by
      push_cast [BitRun.value, List.map_cons, List.map_nil, List.sum_cons, List.sum_nil]
      omega) :
    (BitVec.ofNat 8 (field p ts)).toInt = d :=
  delta_eq (reads.trans (field_eq_sum p rs rfl fits apart rfl)) small sext

/-- Two single bits OR-ed are their maximum. -/
theorem or_bits_eq_max {a c : Nat} (ha : a < 2) (hc : c < 2) : a ||| c = max a c := by
  obtain rfl | rfl : a = 0 ∨ a = 1 := by omega
  all_goals obtain rfl | rfl : c = 0 ∨ c = 1 := by omega
  all_goals rfl

/-- A byte extended by one bit, which shares the place of the byte's top bit (R172). -/
theorem field_sharing_sign (p : List Byte) {ts : Terms} (k j low : Nat)
    (hts : ts = [BitRun.term ⟨k, 0, 8, 0⟩, BitRun.term ⟨j, low, 1, 7⟩] := by rfl) (fits : low + 1 ≤ 8 := by decide) :
    field p ts = (byteAt p k).toNat % 128 +
      128 * max ((byteAt p k).toNat / 128) ((byteAt p j).toNat / 2 ^ low % 2) := by
  have top : (byteAt p k).toNat / 128 < 2 := by omega
  rw [field_extended p k j low 1 hts fits rfl, Nat.pow_one, or_bits_eq_max top (Nat.mod_lt _ Nat.two_pos)]

/-- A packet with bit 6 of byte 0 clear and the end-of-stream marker are the ones V3 and V3R reject (R146). -/
theorem v3Stick_reject (p : List Byte) :
    Reference.v3Stick.reject.any (passesAll p) =
      (!decide ((byteAt p 0).toNat / 2 ^ 6 % 2 = 1) ||
        decide ((byteAt p 1).toNat = 0x7F ∧ (byteAt p 2).toNat = 0x7F ∧ (byteAt p 4).toNat = 0x7F)) := by
  rw [Bool.eq_iff_iff]
  simp [Reference.v3Stick, masked_eq_iff _ 0x40#8, andBits]
  omega

/-- Settles O59: which bits of which byte each term of the six layouts reads; V7's two masks with a gap are split. -/
theorem referenceLayoutSticks : Obligations.ReferenceLayoutSticks := by
  intro p
  dsimp only
  refine ⟨rfl, rfl, rfl, rfl, ?buttons, flag_eq_bit p 1 0, flag_eq_bit p 1 1, flag_eq_bit p 1 2,
    flag_eq_bit p 0 5, flag_eq_bit p 0 6, flag_eq_bit p 0 7, rfl, rfl, rfl, rfl, v3Stick_reject p, rfl, rfl, rfl, ?plain,
    ?v3X, ?v3Y, ?v3Z, ?v6X, ?v6Y, ?v6Z, ?v7X, ?v7Y, ?v7Z, ?ss4X, ?ss4Y, ?ss4Z⟩
  case buttons => rintro l (rfl | rfl) <;> exact ⟨flag_eq_bit p 3 0, flag_eq_bit p 3 1, flag_eq_bit p 3 2⟩
  case plain => rintro l (rfl | rfl) <;> exact ⟨rfl, rfl, rfl, rfl⟩
  case v3X => exact delta_eq_sum p [⟨0, 5, 1, 7⟩, ⟨1, 0, 7, 0⟩]
  case v3Y => exact delta_eq_sum p [⟨0, 4, 1, 7⟩, ⟨2, 0, 7, 0⟩]
  case v3Z =>
    have z : field p Reference.v3Stick.z = (byteAt p 4).toNat % 128 := field_eq_sum p [⟨4, 0, 7, 0⟩]
    omega
  case v6X => exact delta_eq (field_sharing_sign p 1 3 5)
  case v6Y => exact delta_eq (field_sharing_sign p 2 3 6)
  case v6Z =>
    have z : field p Reference.v6.stick.z = (byteAt p 4).toNat := field_eq_sum p [⟨4, 0, 8, 0⟩]
    omega
  case v7X => exact delta_eq_sum p [⟨2, 0, 6, 0⟩, ⟨2, 7, 1, 7⟩, ⟨3, 4, 1, 6⟩] (field_split p 2 0x3F 0x80 0 _)
  case v7Y =>
    exact delta_eq_sum p [⟨3, 0, 3, 0⟩, ⟨4, 3, 3, 3⟩, ⟨4, 7, 1, 7⟩, ⟨3, 5, 1, 6⟩]
      (congrArg (termValue p _ ||| ·) (field_split p 4 0x38 0x80 0 _))
  case v7Z =>
    have z : field p Reference.v7.stick.z = (byteAt p 5).toNat % 64 + 64 * ((byteAt p 3).toNat / 128) :=
      field_eq_sum p [⟨5, 0, 6, 0⟩, ⟨3, 7, 1, 6⟩]
    omega
  case ss4X => exact delta_eq_sum p [⟨0, 0, 1, 7⟩, ⟨1, 0, 7, 0⟩]
  case ss4Y => exact delta_eq_sum p [⟨3, 0, 1, 7⟩, ⟨2, 0, 7, 0⟩]
  case ss4Z =>
    have z : field p Reference.ss4Stick.z = (byteAt p 4).toNat % 128 := field_eq_sum p [⟨4, 0, 7, 0⟩]
    omega

end Sys2Proof.Machine

/-!
PROOF. The decode rules of V7, V8 and SS4-Plus (42_decoders_v7_ss4.md). V8 and SS4-Plus share one decoder over their layouts, so
each statement about them is proved for any family first (`process_ss4One`, `process_ss4Two`, `process_ss4_ends`); TWO and
MULTI of V7 share what BUTTONS_V7 makes of two positions and a count (`process_v7`).
-/

namespace Sys2Proof.Machine

/-! ### What the device selects -/

/-- A choice by a capability of the device, as the rules write it. -/
theorem ite_has_eq {α : Type} (d : Descriptor) (c : Cap) (a b : α) :
    (if d.has c = true then a else b) = if c ∈ d.caps then a else b := if_congr List.contains_iff_mem rfl rfl

/-- A capability the device lacks, as the rules write it. -/
theorem not_has_eq (d : Descriptor) (c : Cap) : (!d.has c) = decide (c ∉ d.caps) := by
  rw [decide_not, Descriptor.has, List.contains_eq_mem]

/-- The first position of a TWO or MULTI packet, by the device's terms (R197). -/
theorem ss4Pos0_eq (d : Descriptor) (l : SS4Layout) (p : List Byte) :
    ss4Pos0 l p (d.has .buttonpad) =
      if .buttonpad ∈ d.caps then ⟨field p l.btlX0, field p l.btlY0⟩ else ⟨field p l.stdX0, field p l.stdY0⟩ :=
  ite_has_eq ..

/-- The second position of a TWO or MULTI packet, by the device's terms (R197). -/
theorem ss4Pos1_eq (d : Descriptor) (l : SS4Layout) (p : List Byte) :
    ss4Pos1 l p (d.has .buttonpad) =
      if .buttonpad ∈ d.caps then ⟨field p l.btlX1, field p l.btlY1⟩ else ⟨field p l.stdX1, field p l.stdY1⟩ :=
  ite_has_eq ..

/-- The no-data constant of the device (R198). -/
theorem ss4NoData_eq (d : Descriptor) (l : SS4Layout) :
    ss4NoData l (d.has .buttonpad) = if .buttonpad ∈ d.caps then ⟨l.padNoX, l.padNoY⟩ else ⟨l.noX, l.noY⟩ :=
  ite_has_eq ..

/-- The buttons of a touchpad packet, by the device's capabilities (R199). -/
theorem ss4Buttons_eq (d : Descriptor) (l : SS4Layout) (p : List Byte) (f : Fields) :
    ss4Buttons l p (d.has .buttonpad) f =
      { f with
        left := flag p l.left, right := decide (.buttonpad ∉ d.caps) && flag p l.right
        middle := decide (.buttonpad ∉ d.caps) && flag p l.middle } := by
  rw [ss4Buttons, not_has_eq]

/-! ### One and two fingers of V8 and SS4-Plus -/

/-- A ONE packet has no multi-packet flag and at most one finger (R201). -/
theorem process_ss4One (fam : Family) (l : SS4Layout) (s : State) {g : Fields}
    (hg : ss4OneFields l s.opnd.pkt (s.desc.has .buttonpad) { cls := 1 } = g) :
    let t := process fam (decodeSS4One l (beginPacket .one s)) (beginPacket .one s)
    KeepsDevice s t ∧ KeepsPairing s t ∧ KeepsBuffer s t ∧ AbandonsGroup s t ∧ t.ctx.prevFin = s.ctx.prevFin ∧
      ShowsFrame fam g false s t :=
  process_position rfl (singleFingers_le _) (Nat.zero_le _) rfl ((gateTs_of_none _ rfl rfl rfl).trans hg) none

/-- Settles O28: both operations decode by the layout they are given. -/
theorem ss4OneFingerPacket : Obligations.SS4OneFingerPacket := by
  intro s i fam l hmem hreach p z
  have decoded : ss4OneFields l p (s.desc.has .buttonpad) { cls := 1 } =
      { st := ⟨field p l.oneX, field p l.oneY⟩, pressure := z, fingers := if 0 < z then 1 else 0
        left := flag p l.left, right := decide (.buttonpad ∉ s.desc.caps) && flag p l.right
        middle := decide (.buttonpad ∉ s.desc.caps) && flag p l.middle, cls := 1 } := by
    rw [ss4OneFields, ss4Buttons_eq]
    rfl
  simp only [List.mem_cons, Prod.mk.injEq, List.not_mem_nil, or_false] at hmem
  rcases hmem with ⟨rfl, rfl, rfl⟩ | ⟨rfl, rfl, rfl⟩ <;>
    exact ⟨_, runDecoder_next hreach, process_ss4One _ _ s decoded⟩

/-- A TWO packet without the continuation bit opens no group and counts two fingers (R202). -/
theorem process_ss4Two (fam : Family) {l : SS4Layout} {s : State} (hcont : flag s.opnd.pkt l.cont = false) {g : Fields}
    (hg : ss4TwoFields l s.opnd.pkt (s.desc.has .buttonpad) { cls := 2 } = g) :
    let t := process fam (decodeSS4Two l (beginPacket .two s)) (beginPacket .two s)
    KeepsDevice s t ∧ KeepsPairing s t ∧ KeepsBuffer s t ∧ AbandonsGroup s t ∧ t.ctx.prevFin = s.ctx.prevFin ∧
      ShowsFrame fam g false s t := by
  have closed : ((ss4TwoFields l s.opnd.pkt (s.desc.has .buttonpad) { cls := 2 }).firstMp && hasMp fam) = false :=
    Bool.and_eq_false_imp.mpr fun h => absurd (hcont.symm.trans h) (by decide)
  have fingers : (ss4TwoFields l s.opnd.pkt (s.desc.has .buttonpad) { cls := 2 }).fingers = 2 := by
    simp [ss4TwoFields, ss4Buttons, hcont]
  have npos : (ss4TwoFields l s.opnd.pkt (s.desc.has .buttonpad) { cls := 2 }).npos = 2 := rfl
  exact process_position closed (fingers ▸ by decide) (npos ▸ by decide) rfl ((gateTs_of_none _ rfl rfl rfl).trans hg) none

/-- Settles O29: both operations decode by the layout they are given. -/
theorem ss4TwoFingerPacket : Obligations.SS4TwoFingerPacket := by
  intro s i fam l hmem hreach hcont p a b
  have decoded : ss4TwoFields l p (s.desc.has .buttonpad) { cls := 2 } =
      { mt := #v[a, b, ⟨0, 0⟩, ⟨0, 0⟩, ⟨0, 0⟩], npos := 2, fingers := 2
        pressure := if field p l.mfZ0 ≠ 0 then l.twoPressure else 0
        left := flag p l.left, right := decide (.buttonpad ∉ s.desc.caps) && flag p l.right
        middle := decide (.buttonpad ∉ s.desc.caps) && flag p l.middle, cls := 2 } := by
    rw [ss4TwoFields, ss4Buttons_eq, ss4Pos0_eq, ss4Pos1_eq, twoPositions_eq, hcont, ite_not]
    rfl
  simp only [List.mem_cons, Prod.mk.injEq, List.not_mem_nil, or_false] at hmem
  rcases hmem with ⟨rfl, rfl, rfl⟩ | ⟨rfl, rfl, rfl⟩ <;>
    exact ⟨_, runDecoder_next hreach, process_ss4Two _ hcont decoded⟩

/-! ### The packets of V7 -/

/-- Fields with at most five positions are clamped in their finger count alone (40_dispatch.md R110, R115). -/
theorem clampFields_of_npos_le {f : Fields} (hn : f.npos ≤ maxTouches) :
    clampFields f = { f with fingers := min f.fingers 5 } := by
  rw [clampFields, Nat.min_eq_left hn]

/-- A position packet that opens no group and may count more than five fingers shows the frame of its fields, the count cut down
to five (40_dispatch.md R100, R110, R115). -/
theorem process_overFull {fam : Family} {f g : Fields} (closed : (f.firstMp && hasMp fam) = false)
    (npos : f.npos ≤ maxTouches) {cls : PacketClass} (hcls : f.cls = cls.code) {s : State} (hg : gateTs s.desc f = g) :
    let t := process fam (.pos f none) (beginPacket cls s)
    KeepsDevice s t ∧ KeepsPairing s t ∧ KeepsBuffer s t ∧ AbandonsGroup s t ∧ t.ctx.prevFin = s.ctx.prevFin ∧
      ShowsFrame fam { g with fingers := min g.fingers 5 } (decide (5 < g.fingers)) s t := by
  intro t
  obtain ⟨device, pairing, buffer, group, prevFin, shows⟩ := process_pos_frame fam cls f none s closed
  have full : overFull f = decide (5 < g.fingers) := by rw [← hg, gateTs_eq]; rfl
  have clamped : { clampFields (gateTs s.desc f) with cls := cls.code } = { g with fingers := min g.fingers 5 } := by
    rw [← hg, clampFields_of_npos_le (by rw [gateTs_eq]; exact npos), ← hcls, gateTs_eq]
  rw [clamped, full] at shows
  exact ⟨device, pairing, buffer, group, prevFin, shows⟩

/-- A position is present unless it is (0, 0) (R182). -/
theorem nonzero_iff (m : Pos) : nonzero m = true ↔ m ≠ ⟨0, 0⟩ := by
  rw [ne_eq, Pos.mk.injEq]
  simp [nonzero, imp_iff_not_or]

/-- NZ, the number of positions present (R182). -/
theorem nzCount_eq (a b : Pos) :
    nzCount a b = (if a ≠ ⟨0, 0⟩ then 1 else 0) + (if b ≠ ⟨0, 0⟩ then 1 else 0) := by
  simp only [nzCount, nonzero_iff]

/-- The finger count with the resting fingers of the device (R183). -/
theorem v7Fingers_eq (d : Descriptor) (l : V7Layout) (p : List Byte) (n : Nat) :
    v7Fingers l p (d.has .buttonpad) n =
      n + (if .buttonpad ∈ d.caps ∧ flag p l.padFingerA = true then 1 else 0) +
        (if .buttonpad ∈ d.caps ∧ flag p l.padFingerB = true then 1 else 0) := by
  rw [v7Fingers, ite_has_eq]
  by_cases pad : Cap.buttonpad ∈ d.caps <;> simp [pad]

/-- The number of positions a layout counts (R183). -/
theorem v7Npos_eq (l : V7Layout) (a b : Pos) : v7Npos l a b = if l.npos = .nonzero then nzCount a b else 2 := by
  unfold v7Npos
  cases l.npos <;> rfl

/-- At most two positions count. -/
theorem v7Npos_le (l : V7Layout) (a b : Pos) : v7Npos l a b ≤ maxTouches := by
  rw [v7Npos_eq, nzCount]
  repeat' split
  all_goals decide

/-- What BUTTONS_V7 makes of fields in which only the class is set, by the count n and the positions m it comes to (R183). -/
theorem v7Fields_fresh (d : Descriptor) (l : V7Layout) (p : List Byte) {a b : Pos} {base n : Nat} {m : Pos × Pos}
    (hn : v7Fingers l p (d.has .buttonpad) base = n) (hm : v7Positions n a b = m) (cls : Nibble) :
    v7Fields l p (d.has .buttonpad) a b base { cls := cls } =
      { mt := #v[m.1, m.2, ⟨0, 0⟩, ⟨0, 0⟩, ⟨0, 0⟩], npos := v7Npos l m.1 m.2, pressure := field p l.pressure
        fingers := n, left := flag p l.left, right := decide (.buttonpad ∉ d.caps) && flag p l.right
        middle := decide (.buttonpad ∉ d.caps) && flag p l.middle, cls := cls } := by
  subst hn hm
  rw [v7Fields, twoPositions_eq, ← not_has_eq]
  cases d.has .buttonpad <;> rfl

/-- A TWO or MULTI packet opens no group, and FRAME cuts its count down to five (R183, R186, R187; 40_dispatch.md R115). -/
theorem process_v7 {s : State} {a b : Pos} {base n : Nat} {m : Pos × Pos}
    (hn : v7Fingers s.cfg.layouts.v7 s.opnd.pkt (s.desc.has .buttonpad) base = n) (hm : v7Positions n a b = m)
    (cls : PacketClass) :
    let p := s.opnd.pkt
    let l := s.cfg.layouts.v7
    let t := process .v7 (.pos (v7Fields l p (s.desc.has .buttonpad) a b base { cls := cls.code }) none) (beginPacket cls s)
    KeepsDevice s t ∧ KeepsPairing s t ∧ KeepsBuffer s t ∧ AbandonsGroup s t ∧ t.ctx.prevFin = s.ctx.prevFin ∧
      ShowsFrame .v7
        { mt := #v[m.1, m.2, ⟨0, 0⟩, ⟨0, 0⟩, ⟨0, 0⟩], npos := v7Npos l m.1 m.2, pressure := field p l.pressure
          fingers := min n 5, left := flag p l.left, right := decide (.buttonpad ∉ s.desc.caps) && flag p l.right
          middle := decide (.buttonpad ∉ s.desc.caps) && flag p l.middle, cls := cls.code }
        (decide (5 < n)) s t :=
  process_overFull rfl (v7Npos_le ..) rfl ((gateTs_of_none _ rfl rfl rfl).trans (v7Fields_fresh _ _ _ hn hm _))

/-- DEC.V7.TWO decodes two positions and counts the nonzero ones (R186). -/
theorem exec_decV7Two {s : State} (hreach : s.cfg.layouts.v7.reach ≤ s.opnd.pkt.length) {n : Nat}
    (hn : nzCount (v7First s.cfg.layouts.v7 s.opnd.pkt) (v7Second s.cfg.layouts.v7 s.opnd.pkt) = n) :
    let l := s.cfg.layouts.v7
    let p := s.opnd.pkt
    exec .decV7Two s =
      .next (process .v7
        (.pos (v7Fields l p (s.desc.has .buttonpad) (v7First l p) (v7Second l p) n { cls := 2 }) none)
        (beginPacket .two s)) := by
  rw [← hn]
  exact runDecoder_next (fam := .v7) hreach

/-- Settles O30: the two operations differ in the second position and in the count the packet gives. -/
theorem v7PositionPackets : Obligations.V7PositionPackets := by
  intro s hreach p l nz i cls a b base hmem n m
  have shown := process_v7 (s := s) (m := m) (v7Fingers_eq s.desc l p base) rfl
  simp only [v7Npos_eq, nzCount_eq] at shown
  simp only [List.mem_cons, Prod.mk.injEq, List.not_mem_nil, or_false] at hmem
  rcases hmem with ⟨rfl, rfl, rfl, rfl, rfl⟩ | ⟨rfl, rfl, rfl, rfl, rfl⟩
  · exact ⟨_, exec_decV7Two hreach (nzCount_eq ..), shown .two⟩
  · exact ⟨_, runDecoder_next (fam := .v7) hreach, shown .multi⟩

/-! ### The end of a V8 or SS4-Plus group -/

/-- The fields of a MULTI packet with its third and fourth positions (R203). -/
def ss4Continuation (a d : Pos) (n : Nat) : Fields :=
  { mt := #v[⟨0, 0⟩, ⟨0, 0⟩, a, d, ⟨0, 0⟩], isMp := true, fingers := n, cls := 3 }

/-- The fields a V8 or SS4-Plus group merges to: the opener's, with the continuation's positions and count (R206). -/
def mergedSS4 (e : Fields) (a d : Pos) (n : Nat) : Fields :=
  { e with mt := (e.mt.set 2 a).set 3 d, fingers := n, npos := 4, firstMp := false, isMp := false }

/-- What a MULTI packet decodes to: the fourth position is absent at the no-data constant, unless the continuation bit is set
(R198, R203). -/
theorem ss4MultiFields_eq (l : SS4Layout) (p : List Byte) (pad : Bool) :
    ss4MultiFields l p pad { cls := 3 } =
      ss4Continuation (ss4Pos0 l p pad)
        (if flag p l.cont = false ∧ ss4Pos1 l p pad = ss4NoData l pad then ⟨0, 0⟩ else ss4Pos1 l p pad)
        (if flag p l.cont = true then 5 else if ss4Pos1 l p pad = ss4NoData l pad then 3 else 4) := by
  simp only [ss4MultiFields, ss4Absent, Bool.and_eq_true, Bool.not_eq_true', beq_iff_eq]
  rfl

/-- MERGE_SS4 where the packet just stored is entry 1. -/
theorem mergeSS4_storedPacket {s : State} (hfill : s.ctx.mpFill = 1) (a d : Pos) (n : Nat) :
    mergeGroup .ss4 (storedPacket .multi (ss4Continuation a d n) s) =
      (mergedSS4 s.ctx.mpFields[0] a d n, (storedPacket .multi (ss4Continuation a d n) s).ctx) := by
  have opener : (storedPacket .multi (ss4Continuation a d n) s).ctx.mpFields[0] = s.ctx.mpFields[0] := by
    simp [storedPacket, Ctx.store, hfill]
  have last : (storedPacket .multi (ss4Continuation a d n) s).ctx.mpFields[1] = ss4Continuation a d n := by
    simp [storedPacket, Ctx.store, hfill]
  rw [mergeGroup, mergeSS4, opener, last]
  rfl

/-- The end of a V8 or SS4-Plus group, whatever the family's terms of the positions: the pairing state stands, and a count of at
most five is not clamped (R206). -/
theorem process_ss4_ends {s : State} (hwf : s.ctx.mpMem.wf) (ho : s.ctx.mpOpen = true) (hfill : s.ctx.mpFill = 1)
    (fam : Family) {f : Fields} {a d : Pos} {n : Nat} (hf : f = ss4Continuation a d n) (hn : n ≤ 5) :
    let e := s.ctx.mpFields[0]
    let t := process fam (.cont f true .ss4) (beginPacket .multi s)
    KeepsDevice s t ∧ KeepsPairing s t ∧ GroupClosed t ∧ t.ctx.prevFin = s.ctx.prevFin ∧
      StoresEntry 1 s.opnd.pkt (ss4Continuation a d n) s t ∧
      ShowsFrame fam
        { e with
          mt := (e.mt.set 2 a).set 3 d, fingers := n, npos := 4, firstMp := false, isMp := false
          tsLeft := keptTs s.desc e.tsLeft, tsRight := keptTs s.desc e.tsRight
          tsMiddle := keptTs s.desc e.tsMiddle, cls := 3 }
        false s t := by
  intro e t
  subst hf
  obtain ⟨device, closed, prevFin, pairing, entry, shows⟩ :=
    process_cont_ends hwf ho (by rw [hfill]; decide) fam .multi _ .ss4 (mergeSS4_storedPacket hfill a d n)
  have full : overFull (mergedSS4 e a d n) = false := decide_eq_false (Nat.not_lt.mpr hn)
  rw [hfill] at entry
  rw [full, gateTs_eq, clampFields_of_le hn (by decide : (4 : Nat) ≤ maxTouches)] at shows
  exact ⟨device, ⟨pairing.valid, pairing.prev0, pairing.prev1, pairing.orient⟩, closed, prevFin, entry, shows⟩

/-- Settles O35: both operations decode to the continuation that ends the group. -/
theorem ss4GroupEnds : Obligations.SS4GroupEnds := by
  intro s i fam l hmem hwf ho hfill hreach p a b no d n e
  have decoded : ss4MultiFields l p (s.desc.has .buttonpad) { cls := 3 } = ss4Continuation a d n := by
    rw [ss4MultiFields_eq, ss4Pos0_eq, ss4Pos1_eq, ss4NoData_eq]
  have few : n ≤ 5 := by
    dsimp only [n]
    split
    · decide
    · split <;> decide
  have ends (fam : Family) := process_ss4_ends hwf ho hfill fam decoded few
  simp only [List.mem_cons, Prod.mk.injEq, List.not_mem_nil, or_false] at hmem
  rcases hmem with ⟨rfl, rfl, rfl⟩ | ⟨rfl, rfl, rfl⟩ <;>
    exact ⟨_, runDecoder_next hreach, ends _⟩

end Sys2Proof.Machine

/-!
PROOF. The reference layouts of V7, V8 and SS4-Plus as arithmetic on the packet's bytes (42_decoders_v7_ss4.md), by the runs
of bits of the section on the earlier families. V7's second position clears and sets runs of bits of a field: both are sums
again (`clearBits_run`, `or_run_eq`).
-/

namespace Sys2Proof.Machine

/-! ### Cleared and set bits -/

/-- Clearing bits, bit by bit (00_scope.md R11). -/
theorem clearBits_testBit (x m i : Nat) : (clearBits x m).testBit i = (x.testBit i && !m.testBit i) := by
  rw [clearBits, Nat.testBit_xor, Nat.testBit_and]
  cases x.testBit i <;> cases m.testBit i <;> rfl

/-- A number is its bits cleared and its bits kept. -/
theorem clearBits_add_and (x m : Nat) : clearBits x m + (x &&& m) = x := by
  have apart : clearBits x m &&& (x &&& m) = 0 := Nat.eq_of_testBit_eq fun i => by
    rw [Nat.testBit_and, Nat.testBit_and, clearBits_testBit, Nat.zero_testBit]
    cases x.testBit i <;> cases m.testBit i <;> rfl
  rw [← or_eq_add_of_and_eq_zero apart]
  apply Nat.eq_of_testBit_eq
  intro i
  rw [Nat.testBit_or, Nat.testBit_and, clearBits_testBit]
  cases x.testBit i <;> cases m.testBit i <;> rfl

/-- Setting bits adds them to the others. -/
theorem or_eq_clearBits_add (x m : Nat) : x ||| m = clearBits x m + m := by
  have apart : clearBits x m &&& m = 0 := Nat.eq_of_testBit_eq fun i => by
    rw [Nat.testBit_and, clearBits_testBit, Nat.zero_testBit]
    cases x.testBit i <;> cases m.testBit i <;> rfl
  rw [← or_eq_add_of_and_eq_zero apart]
  apply Nat.eq_of_testBit_eq
  intro i
  rw [Nat.testBit_or, Nat.testBit_or, clearBits_testBit]
  cases x.testBit i <;> cases m.testBit i <;> rfl

/-- A run of bits cleared. -/
theorem clearBits_run (n low width : Nat) :
    clearBits n (2 ^ low * (2 ^ width - 1)) = n - 2 ^ low * (n / 2 ^ low % 2 ^ width) := by
  rw [← and_run_eq]
  exact Nat.eq_sub_of_add_eq (clearBits_add_and ..)

/-- A run of bits set. -/
theorem or_run_eq (n low width : Nat) :
    n ||| 2 ^ low * (2 ^ width - 1) = n - 2 ^ low * (n / 2 ^ low % 2 ^ width) + 2 ^ low * (2 ^ width - 1) := by
  rw [or_eq_clearBits_add, clearBits_run]

/-- A bit put where a number has none. -/
theorem or_bit_eq_add {n i c : Nat} (clear : n / 2 ^ i % 2 = 0) (hc : c < 2) : n ||| 2 ^ i * c = n + 2 ^ i * c := by
  obtain rfl | rfl : c = 0 ∨ c = 1 := by omega
  · rw [Nat.mul_zero, Nat.or_zero, Nat.add_zero]
  · simpa [clear] using or_run_eq n i 1

/-! ### V7 -/

/-- The x bits of the second position, before any is cleared (R182). -/
theorem v7_m1x (p : List Byte) :
    field p Reference.v7.m1x =
      2048 * ((byteAt p 3).toNat / 128) + 1024 * ((byteAt p 4).toNat / 128) + 16 * ((byteAt p 4).toNat % 64) :=
  field_eq_sum p [⟨3, 7, 1, 11⟩, ⟨4, 7, 1, 10⟩, ⟨4, 0, 6, 4⟩]

/-- The y bits of the second position, before any is set (R182). -/
theorem v7_m1y (p : List Byte) :
    field p Reference.v7.m1y = 1024 * ((byteAt p 5).toNat / 128) + 16 * ((byteAt p 5).toNat % 64) :=
  field_eq_sum p [⟨5, 7, 1, 10⟩, ⟨5, 0, 6, 4⟩]

/-- The inverted y axis ends at 2047 (R182). -/
theorem v7Invert_reference (x y : Nat) : v7Invert Reference.v7 (x, y) = ⟨x, 2047 - y⟩ := rfl

/-- The second position of a TWO packet before the y axis is inverted: its x has no low bits to clear, its y takes them all
(R182). -/
theorem v7SecondTwo_reference {x y : Nat} (hx : x % 16 = 0) (hy : y % 16 = 0) :
    v7SecondTwo Reference.v7 x y = if x = 4080 ∧ y + 15 = 2047 then (0, y + 15) else (x, y + 15) := by
  have cleared : clearBits x Reference.v7.twoXClear = x := (clearBits_run x 0 4).trans (by omega)
  have filled : y ||| Reference.v7.twoYSet = y + 15 := (or_run_eq y 0 4).trans (by omega)
  rw [v7SecondTwo, cleared, filled]
  exact if_congr and_comm rfl rfl

/-- The second position of a MULTI packet before the y axis is inverted: of x the bits below 64 are cleared; of y bit 5 is
replaced and the bits below 32 are set (R182). -/
theorem v7SecondMulti_reference (p : List Byte) (x y : Nat) :
    v7SecondMulti Reference.v7 p x y = (64 * (x / 64), 64 * (y / 64) + 32 * ((byteAt p 4).toNat / 2 % 2) + 31) := by
  have bit : field p Reference.v7.multiYTerms = 2 ^ 5 * ((byteAt p 4).toNat / 2 % 2) := field_eq_sum p [⟨4, 1, 1, 5⟩]
  have clearedX : clearBits x Reference.v7.multiXClear = 64 * (x / 64) := (clearBits_run x 0 6).trans (by omega)
  have clearedY : clearBits y Reference.v7.multiYClear = 64 * (y / 64) + y % 32 :=
    (clearBits_run y 5 1).trans (by omega)
  have filled (n : Nat) : n ||| Reference.v7.multiYSet = n - n % 32 + 31 := (or_run_eq n 0 5).trans (by omega)
  rw [v7SecondMulti, clearedX, clearedY, bit, or_bit_eq_add (by omega) (by omega), filled, Prod.mk.injEq]
  omega

/-- A flag that is the highest bit of a byte. -/
theorem flag_eq_top_bit (p : List Byte) {ts : Terms} (k : Nat) (hts : ts = [BitRun.term ⟨k, 7, 1, 0⟩] := by rfl) :
    flag p ts = decide ((byteAt p k).toNat / 128 = 1) := by
  rw [flag_eq_bit p k 7 hts, decide_eq_decide]
  omega

/-- Settles O57: which bits of which byte each term reads, and what of the second position is cleared and set. -/
theorem referenceLayoutV7 : Obligations.ReferenceLayoutV7 := by
  intro p
  dsimp only
  refine ⟨?first, ?second, ?secondMulti, congrArg (3 + ·) (field_eq_sum p [⟨5, 0, 2, 0⟩]), rfl, rfl, flag_eq_top_bit p 0,
    flag_eq_bit p 0 5, flag_eq_bit p 0 4, flag_eq_bit p 0 5, flag_eq_bit p 0 4⟩
  case first =>
    have x : field p Reference.v7.m0x =
        2048 * ((byteAt p 2).toNat / 128) + 32 * ((byteAt p 2).toNat % 64) + 8 * ((byteAt p 3).toNat / 16 % 4) +
          (byteAt p 3).toNat % 8 :=
      field_eq_sum p [⟨2, 7, 1, 11⟩, ⟨2, 0, 6, 5⟩, ⟨3, 4, 2, 3⟩, ⟨3, 0, 3, 0⟩]
    have y : field p Reference.v7.m0y = 8 * (byteAt p 1).toNat + (byteAt p 0).toNat % 8 :=
      field_eq_sum p [⟨1, 0, 8, 3⟩, ⟨0, 0, 3, 0⟩]
    rw [v7First, x, y, v7Invert_reference]
  case second =>
    rw [v7Second, v7_m1x, v7_m1y, v7SecondTwo_reference (by omega) (by omega)]
    split
    · next falseTouch => rw [falseTouch.2]; rfl
    · exact v7Invert_reference ..
  case secondMulti =>
    rw [v7SecondM, v7_m1x, v7_m1y, v7SecondMulti_reference, v7Invert_reference, Pos.mk.injEq]
    omega

/-! ### V8 and SS4-Plus -/

/-- The pressure of a ONE packet: the mask drops the highest bit of the doubled field (R201). -/
theorem v8_onePressure (p : List Byte) :
    ss4OnePressure Reference.v8 p = 2 * (16 * ((byteAt p 5).toNat / 32 % 4) + (byteAt p 5).toNat % 16) := by
  have z : field p Reference.v8.oneZ =
      128 * ((byteAt p 4).toNat / 128) + 16 * ((byteAt p 5).toNat / 32) + (byteAt p 5).toNat % 16 :=
    field_eq_sum p [⟨5, 0, 4, 0⟩, ⟨5, 5, 3, 4⟩, ⟨4, 7, 1, 7⟩]
  rw [ss4OnePressure, z, show Reference.v8.oneZMul = 2 from rfl]
  exact (and_run_eq _ 0 7).trans (by omega)

/-- MF_Z(0) is nonzero when one of its two bits is set (R197). -/
theorem v8_mfZ0_ne_zero_iff (p : List Byte) :
    field p Reference.v8.mfZ0 ≠ 0 ↔ (byteAt p 1).toNat % 2 = 1 ∨ (byteAt p 1).toNat / 4 % 2 = 1 := by
  have z : field p Reference.v8.mfZ0 = (byteAt p 1).toNat % 2 + 2 * ((byteAt p 1).toNat / 4 % 2) :=
    field_eq_sum p [⟨1, 0, 1, 0⟩, ⟨1, 2, 1, 1⟩]
  omega

/-- Settles O58: which bits of which byte each term of the two layouts reads; they differ in the places of the x terms of TWO and
MULTI packets and in the x no-data constants. -/
theorem referenceLayoutSS4 : Obligations.ReferenceLayoutSS4 := by
  intro p
  dsimp only [Nat.reduceAdd]
  rintro l w (⟨rfl, rfl⟩ | ⟨rfl, rfl⟩)
  case' inl =>
    refine ⟨field_eq_sum p [⟨0, 0, 3, 5⟩, ⟨1, 3, 5, 8⟩], field_eq_sum p [⟨3, 0, 3, 5⟩, ⟨4, 3, 5, 8⟩],
      field_eq_sum p [⟨0, 0, 3, 5⟩, ⟨1, 3, 5, 8⟩, ⟨0, 7, 1, 4⟩],
      field_eq_sum p [⟨3, 0, 3, 5⟩, ⟨4, 3, 5, 8⟩, ⟨3, 7, 1, 4⟩], ?_⟩
  case' inr =>
    refine ⟨field_eq_sum p [⟨0, 0, 3, 4⟩, ⟨1, 3, 5, 7⟩], field_eq_sum p [⟨3, 0, 3, 4⟩, ⟨4, 3, 5, 7⟩],
      field_eq_sum p [⟨0, 0, 3, 4⟩, ⟨1, 3, 5, 7⟩, ⟨0, 7, 1, 3⟩],
      field_eq_sum p [⟨3, 0, 3, 4⟩, ⟨4, 3, 5, 7⟩, ⟨3, 7, 1, 3⟩], ?_⟩
  all_goals
    exact ⟨field_eq_sum p [⟨1, 1, 1, 4⟩, ⟨2, 0, 4, 5⟩, ⟨2, 5, 3, 9⟩],
      field_eq_sum p [⟨4, 1, 1, 4⟩, ⟨5, 0, 4, 5⟩, ⟨5, 5, 3, 9⟩],
      field_eq_sum p [⟨1, 1, 1, 4⟩, ⟨2, 0, 4, 5⟩, ⟨2, 5, 3, 9⟩, ⟨0, 6, 1, 3⟩],
      field_eq_sum p [⟨4, 1, 1, 4⟩, ⟨5, 0, 4, 5⟩, ⟨5, 5, 3, 9⟩, ⟨3, 6, 1, 3⟩],
      field_eq_sum p [⟨0, 0, 3, 0⟩, ⟨1, 0, 4, 3⟩, ⟨1, 5, 3, 7⟩, ⟨2, 5, 3, 10⟩],
      field_eq_sum p [⟨2, 0, 4, 0⟩, ⟨3, 6, 2, 4⟩, ⟨4, 0, 4, 6⟩, ⟨4, 5, 2, 10⟩],
      v8_onePressure p, v8_mfZ0_ne_zero_iff p, field_eq_sum p [⟨4, 0, 1, 0⟩, ⟨4, 2, 1, 1⟩], rfl,
      flag_eq_bit p 2 4, flag_eq_bit p 0 5, flag_eq_bit p 0 6, flag_eq_top_bit p 0, rfl, rfl, rfl, rfl⟩

end Sys2Proof.Machine

/-!
PROOF. The Bitmap Decoder (43_bitmap.md). The ends of the list of asserted positions are the extremes a statement names
(`asserted_of_extremes`); each of BITMAP's three ways is then one equation, with ORIENT's choice stated over the integers.
-/

namespace Sys2Proof.Machine

/-! ### The asserted positions by their extremes -/

/-- A position above no other asserted one begins the list (43_bitmap.md R221). -/
theorem asserted_of_least {bits m a : Nat} (inside : a < bits) (one : m.testBit a = true)
    (least : ∀ k, k < bits → m.testBit k = true → a ≤ k) : ∃ l, asserted bits m = a :: l := by
  cases h : asserted bits m with
  | nil => exact absurd one (by simp [asserted_nil.1 h a inside])
  | cons a' l =>
    obtain ⟨inside', one', least', -⟩ := asserted_cons h
    exact ⟨l, by rw [Nat.le_antisymm (least a' inside' one') (least' a inside one)]⟩

/-- The extreme asserted positions begin and end the list (43_bitmap.md R221, R224). -/
theorem asserted_of_extremes {bits m a b : Nat} (inside : b < bits) (lowOne : m.testBit a = true)
    (highOne : m.testBit b = true) (extreme : ∀ k, k < bits → m.testBit k = true → a ≤ k ∧ k ≤ b) (order : a ≤ b) :
    ∃ l, asserted bits m = a :: l ∧ (a :: l).getLast (by simp) = b := by
  obtain ⟨l, h⟩ := asserted_of_least (by omega) lowOne fun k hk one => (extreme k hk one).1
  obtain ⟨-, -, -, greatest⟩ := asserted_cons h
  obtain ⟨lastInside, lastOne⟩ := asserted_last h
  exact ⟨l, h, Nat.le_antisymm (extreme _ lastInside lastOne).2 (greatest b inside highOne)⟩

/-! ### The three ways of BITMAP -/

/-- Without a finger or an asserted position on either axis BITMAP returns nothing (43_bitmap.md R222). -/
theorem bitmapOf_none (c : Cfg) (k : Scale) (x : Ctx) {xm ym n : Nat}
    (h : n = 0 ∨ asserted c.geom.xBits xm = [] ∨ asserted c.geom.yBits ym = []) :
    bitmapOf c k x xm ym n = ([], { x with bmPrevValid := false }) := by
  rw [bitmapOf]
  split
  · next hx hy =>
    obtain zero | noX | noY := h
    · rw [if_pos zero]
    · rw [hx] at noX; contradiction
    · rw [hy] at noY; contradiction
  · rfl

/-- One finger is at the lowest asserted positions (43_bitmap.md R223). -/
theorem bitmapOf_one (c : Cfg) (k : Scale) (x : Ctx) {xm ym i j : Nat} {xs ys : List Nat}
    (hx : asserted c.geom.xBits xm = i :: xs) (hy : asserted c.geom.yBits ym = j :: ys) :
    bitmapOf c k x xm ym 1 = ([coordOf c.geom k i j], { x with bmPrevValid := false }) := by
  simp [bitmapOf, hx, hy]

/-- Two or more fingers are at the ends of the lists of asserted positions, paired (43_bitmap.md R224). -/
theorem bitmapOf_two_le (c : Cfg) (k : Scale) (x : Ctx) {xm ym n i j : Nat} {xs ys : List Nat} (two : 2 ≤ n)
    (hx : asserted c.geom.xBits xm = i :: xs) (hy : asserted c.geom.yBits ym = j :: ys) :
    bitmapOf c k x xm ym n =
      bitmapPair c k x i ((i :: xs).getLast (by simp)) j ((j :: ys).getLast (by simp)) := by
  simp only [bitmapOf, hx, hy]
  rw [if_neg (by omega), if_neg (by omega)]

/-! ### The pairing -/

/-- The cost of a pair in the terms of DIST_METRIC (44_tracker.md R243). -/
theorem pairCost_eq (m : Metric) (x : Ctx) (p q : Pos) :
    (pairCost m x p q : Int) =
      metricOf m p.x p.y x.bmPrev0.x x.bmPrev0.y + metricOf m q.x q.y x.bmPrev1.x x.bmPrev1.y := by
  rw [pairCost, posDist, posDist, Nat.cast_add, dist_eq, dist_eq]

/-- ORIENT takes the cheaper pair where there is a valid previous output, and stands on a tie (43_bitmap.md R225). -/
theorem orientOf_eq (m : Metric) (x : Ctx) (d0 d1 c0 c1 : Pos) :
    orientOf m x d0 d1 c0 c1 =
      if x.bmPrevValid = true ∧ (pairCost m x d0 d1 : Int) < pairCost m x c0 c1 then .direct
      else if x.bmPrevValid = true ∧ (pairCost m x c0 c1 : Int) < pairCost m x d0 d1 then .crossed else x.bmOrient := by
  cases h : x.bmPrevValid <;> simp [orientOf, h]

/-- The two points ORIENT's choice pairs, returned and kept (43_bitmap.md R224, R225, R227). -/
theorem bitmapPair_eq (c : Cfg) (k : Scale) (x : Ctx) (xlo xhi ylo yhi : Nat) :
    bitmapPair c k x xlo xhi ylo yhi =
      let at_ := coordOf c.geom k
      let o := orientOf c.metric x (at_ xlo ylo) (at_ xhi yhi) (at_ xlo yhi) (at_ xhi ylo)
      let p := if o = .direct then at_ xlo ylo else at_ xlo yhi
      let q := if o = .direct then at_ xhi yhi else at_ xhi ylo
      ([p, q], { x with bmPrevValid := true, bmPrev0 := p, bmPrev1 := q, bmOrient := o }) := by
  dsimp only
  rw [bitmapPair]
  split
  · next direct => rw [direct]; rfl
  · next crossed => rw [crossed]; rfl

/-- What BITMAP computes from its operands is its effect. -/
theorem exec_bitmap_of_bitmapAt {s : State} {ps : List Pos} {x : Ctx}
    (h : bitmapAt s s.opnd.xm s.opnd.ym s.opnd.fingers = (ps, x)) :
    exec .bitmap s = .next { s with ctx := x, ret := { s.ret with points := ps } } := by
  have effect : exec .bitmap s = execBitmap s := rfl
  rw [effect, execBitmap, h]

/-- Settles O43: a map without asserted position has an empty list, and one finger's lowest positions begin the two lists. -/
theorem bitmapOfFewFingers : Obligations.BitmapOfFewFingers := by
  refine fun s => ⟨fun nothing => exec_bitmap_of_bitmapAt ?_, fun i j one hi xi lowX hj yj lowY => exec_bitmap_of_bitmapAt ?_⟩
  · exact bitmapOf_none _ _ _ (nothing.imp_right (Or.imp asserted_nil.2 asserted_nil.2))
  · have least {m a : Nat} (low : ∀ k, k < a → m.testBit k = false) (k : Nat) (hk : m.testBit k = true) : a ≤ k :=
      Nat.le_of_not_lt fun below => by simp [low k below] at hk
    obtain ⟨xs, hx⟩ := asserted_of_least hi xi fun k _ => least lowX k
    obtain ⟨ys, hy⟩ := asserted_of_least hj yj fun k _ => least lowY k
    rw [one]
    exact bitmapOf_one _ _ _ hx hy

/-- Settles O44: the extremes are the ends of the two lists, and ORIENT's costs are the statement's. -/
theorem bitmapPairsTheExtremes : Obligations.BitmapPairsTheExtremes := by
  intro s a b c d two hb xa xb extremeX orderX hd yc yd extremeY orderY k at_ cost direct crossed o p q
  obtain ⟨xs, hx, lastX⟩ := asserted_of_extremes hb xa xb extremeX orderX
  obtain ⟨ys, hy, lastY⟩ := asserted_of_extremes hd yc yd extremeY orderY
  have orient : orientOf s.cfg.metric s.ctx (at_ a c) (at_ b d) (at_ a d) (at_ b c) = o := by
    simp only [orientOf_eq, pairCost_eq]
    rfl
  have coords : coordOf s.cfg.geom k = at_ := rfl
  apply exec_bitmap_of_bitmapAt
  rw [bitmapAt, bitmapOf_two_le _ _ _ two hx hy, lastX, lastY, bitmapPair_eq]
  dsimp only
  rw [coords, orient]

end Sys2Proof.Machine

/-!
PROOF. The virtual-finger slot tracker (44_tracker.md). The matching loop is a `GreedyMatching` of the pool before the frame,
because it only writes fingers that are no longer matched. TRACK is then one theorem, `trackPool_steps`: the matched fingers are
bound, the unmatched ones age, the contacts left over are allocated in order. What becomes of a finger or of a contact is
read off it.
-/

namespace Sys2Proof.Machine

/-! ### The least candidate -/

/-- The order of R242 with equality: distance, then slot, then tag. -/
def Cand.upTo (a b : Cand) : Prop :=
  a.d < b.d ∨ (a.d = b.d ∧ (a.contact.slot < b.contact.slot ∨ (a.contact.slot = b.contact.slot ∧ a.tag ≤ b.tag)))

/-- Not to come before is to come after or be level with. -/
theorem Cand.before_eq_false {a b : Cand} : b.before a = false ↔ a.upTo b := by
  simp only [Cand.before, Cand.upTo, decide_eq_false_iff_not, Fin.lt_def, Fin.le_def]
  omega

/-- A candidate is level with itself. -/
theorem Cand.upTo_refl (a : Cand) : a.upTo a := .inr ⟨rfl, .inr ⟨rfl, le_rfl⟩⟩

/-- The order of candidates is transitive. -/
theorem Cand.upTo.trans {a b e : Cand} (ab : a.upTo b) (be : b.upTo e) : a.upTo e := by
  simp only [Cand.upTo, Fin.le_def] at *
  omega

/-- To come before is to come before or be level with. -/
theorem Cand.upTo_of_before {a b : Cand} (h : a.before b = true) : a.upTo b := by
  simp only [Cand.before, Cand.upTo, decide_eq_true_eq, Fin.lt_def, Fin.le_def] at *
  omega

/-- No candidate comes before the one chosen (44_tracker.md R242). -/
theorem leastCand_upTo {cs : List Cand} {a : Cand} (h : leastCand cs = some a) : ∀ b ∈ cs, a.upTo b := by
  induction cs generalizing a with
  | nil => cases h
  | cons e cs ih =>
    rw [leastCand] at h
    rw [List.forall_mem_cons]
    split at h
    · next empty =>
      cases h
      exact ⟨e.upTo_refl, by simp [leastCand_none empty]⟩
    · next m found =>
      split at h
      · next before =>
        cases h
        exact ⟨Cand.upTo_of_before before, ih found⟩
      · next notBefore =>
        cases h
        have least : e.upTo m := Cand.before_eq_false.1 (Bool.eq_false_iff.2 notBefore)
        exact ⟨e.upTo_refl, fun b hb => least.trans (ih found b hb)⟩

/-! ### The candidates -/

/-- A distance is within MATCH_MAX_DIST if it is at most the bound, where there is one (44_tracker.md R244). -/
theorem within_iff {limit : Option Nat} {d : Nat} : within limit d = true ↔ ∀ l, limit = some l → d ≤ l := by
  cases limit <;> simp [within]

/-- The model's distance of a finger and a contact is that of R243. -/
theorem fingerDist_eq (c : Cfg) (v : VFinger) (k : Contact) : (fingerDist c.metric v k : Int) = fingerGap c v k :=
  dist_eq ..

/-- The candidates are the pairs the rules name, each with its distance (44_tracker.md R240, R244). -/
theorem mem_candidates_iff {c : Cfg} {pool : Pool} {uv : List (Fin 5)} {uc : List Contact} {a : Cand} :
    a ∈ candidates c pool uv uc ↔
      a.tag ∈ uv ∧ a.contact ∈ uc ∧ (a.d : Int) = fingerGap c pool[a.tag] a.contact ∧
        ∀ l, c.matchMaxDist = some l → a.d ≤ l := by
  rw [← fingerDist_eq, Int.natCast_inj, ← within_iff]
  simp only [candidates, List.mem_flatMap, List.mem_filter, List.mem_map]
  constructor
  · rintro ⟨i, hi, ⟨k, hk, rfl⟩, near⟩
    exact ⟨hi, hk, rfl, near⟩
  · rintro ⟨hi, hk, hd, near⟩
    exact ⟨a.tag, hi, ⟨a.contact, hk, by rw [← hd]⟩, near⟩

/-- A candidate of the model is a candidate pair of the rules. -/
theorem isCandidate_of_mem {c : Cfg} {pool : Pool} {uv : List (Fin 5)} {uc : List Contact} {a : Cand}
    (h : a ∈ candidates c pool uv uc) : IsCandidate c pool uv uc a.tag a.contact := by
  obtain ⟨finger, contact, gap, near⟩ := mem_candidates_iff.1 h
  exact ⟨finger, contact, fun l hl => gap ▸ Int.ofNat_le.2 (near l hl)⟩

/-- A candidate pair of the rules, with its distance, is a candidate of the model. -/
theorem IsCandidate.mem {c : Cfg} {pool : Pool} {uv : List (Fin 5)} {uc : List Contact} {i : Fin 5} {k : Contact}
    (h : IsCandidate c pool uv uc i k) : ⟨i, k, fingerDist c.metric pool[i] k⟩ ∈ candidates c pool uv uc :=
  mem_candidates_iff.2 ⟨h.finger, h.contact, fingerDist_eq .., fun l hl =>
    Int.ofNat_le.1 ((fingerDist_eq c pool[i] k).trans_le (h.near l hl))⟩

/-- Only the unmatched fingers of a pool make candidates. -/
theorem candidates_congr {c : Cfg} {pool pool' : Pool} {uv : List (Fin 5)} (uc : List Contact)
    (h : ∀ i ∈ uv, pool[i] = pool'[i]) : candidates c pool uv uc = candidates c pool' uv uc :=
  List.flatMap_congr fun i hi => by rw [h i hi]

/-! ### Greedy matchings -/

section GreedyMatching

variable {c : Cfg} {pool : Vector VFinger 5} {uv uv' : List (Fin 5)} {uc uc' : List Contact} {ps : List (Fin 5 × Contact)}

/-- The fingers are those of the pairs and those that stay unmatched. -/
theorem GreedyMatching.fingers_perm (G : GreedyMatching c pool uv uc ps uv' uc') : uv.Perm (ps.map Prod.fst ++ uv') := by
  induction G with
  | done => exact .refl _
  | pair uv uc i k ps uv' uc' candidate least rest ih => exact (List.perm_cons_erase candidate.finger).trans (ih.cons i)

/-- The contacts are those of the pairs and those that stay unmatched. -/
theorem GreedyMatching.contacts_perm (G : GreedyMatching c pool uv uc ps uv' uc') : uc.Perm (ps.map Prod.snd ++ uc') := by
  induction G with
  | done => exact .refl _
  | pair uv uc i k ps uv' uc' candidate least rest ih => exact (List.perm_cons_erase candidate.contact).trans (ih.cons k)

/-- With MATCH_MAX_DIST unbounded the fingers or the contacts are exhausted (44_tracker.md R244). -/
theorem GreedyMatching.exhausts (G : GreedyMatching c pool uv uc ps uv' uc') (unbounded : c.matchMaxDist = none) :
    uv' = [] ∨ uc' = [] := by
  induction G with
  | done uv uc noCandidate =>
    refine candidates_unbounded (pool := pool) unbounded (List.eq_nil_iff_forall_not_mem.2 fun a ha => ?_)
    exact noCandidate _ _ (isCandidate_of_mem ha)
  | pair uv uc i k ps uv' uc' candidate least rest ih => exact ih

/-- A matched finger was unmatched before and is not afterwards. -/
theorem GreedyMatching.finger_of_pair (G : GreedyMatching c pool uv uc ps uv' uc') (nodup : uv.Nodup) {i : Fin 5}
    {k : Contact} (h : (i, k) ∈ ps) : i ∈ uv ∧ i ∉ uv' := by
  have hi : i ∈ ps.map Prod.fst := List.mem_map_of_mem h
  have disjoint := (List.nodup_append'.1 (G.fingers_perm.nodup_iff.1 nodup)).2.2
  exact ⟨G.fingers_perm.mem_iff.2 (List.mem_append_left _ hi), disjoint hi⟩

/-- A matched contact is one of the contacts. -/
theorem GreedyMatching.contact_of_pair (G : GreedyMatching c pool uv uc ps uv' uc') {i : Fin 5} {k : Contact}
    (h : (i, k) ∈ ps) : k ∈ uc :=
  G.contacts_perm.mem_iff.2 (List.mem_append_left _ (List.mem_map_of_mem h))

/-- Every finger is matched or stays unmatched. -/
theorem GreedyMatching.finger_cases (G : GreedyMatching c pool uv uc ps uv' uc') {i : Fin 5} (h : i ∈ uv) :
    (∃ k, (i, k) ∈ ps) ∨ i ∈ uv' := by
  simpa using G.fingers_perm.mem_iff.1 h

/-- Every contact is matched or stays unmatched. -/
theorem GreedyMatching.contact_cases (G : GreedyMatching c pool uv uc ps uv' uc') {k : Contact} (h : k ∈ uc) :
    (∃ i, (i, k) ∈ ps) ∨ k ∈ uc' := by
  simpa using G.contacts_perm.mem_iff.1 h

end GreedyMatching

/-! ### The matching loop -/

/-- The least candidate is the pair a greedy matching takes first, in any pool with the same unmatched fingers. -/
theorem GreedyMatching.pair_leastCand {c : Cfg} {pool : Pool} {uv uv' : List (Fin 5)} {uc uc' : List Contact}
    {ps : List (Fin 5 × Contact)} {a : Cand} (h : leastCand (candidates c pool uv uc) = some a)
    (rest : GreedyMatching c pool (uv.erase a.tag) (uc.erase a.contact) ps uv' uc') :
    GreedyMatching c pool uv uc ((a.tag, a.contact) :: ps) uv' uc' := by
  have ha := leastCand_mem h
  refine .pair uv uc a.tag a.contact ps uv' uc' (isCandidate_of_mem ha) (fun j k candidate => ?_) rest
  obtain ⟨-, -, gap, -⟩ := mem_candidates_iff.1 ha
  rw [← gap, ← fingerDist_eq, Int.ofNat_lt, Int.natCast_inj]
  exact leastCand_upTo h _ candidate.mem

/-- What one round of the loop hands on: the finger of the candidate bound, the pair taken out (44_tracker.md R240). -/
def Matching.afterRound (c : Cfg) (b : Bool) (m : Matching) (a : Cand) : Matching :=
  ⟨m.pool.set a.tag (bindFinger c m.pool[a.tag] a.contact b), m.uv.erase a.tag, m.uc.erase a.contact⟩

/-- The loop ends when no candidate is left. -/
theorem matchLoop_of_none {c : Cfg} {b : Bool} {n : Nat} {m : Matching}
    (h : leastCand (candidates c m.pool m.uv m.uc) = none) : matchLoop c b (n + 1) m = m := by
  rw [matchLoop, h]

/-- The loop goes on after a round on the least candidate. -/
theorem matchLoop_of_some {c : Cfg} {b : Bool} {n : Nat} {m : Matching} {a : Cand}
    (h : leastCand (candidates c m.pool m.uv m.uc) = some a) :
    matchLoop c b (n + 1) m = matchLoop c b n (m.afterRound c b a) := by
  rw [matchLoop, h, Matching.afterRound]

/-- A round binds the finger of its candidate and leaves the others. -/
theorem Matching.afterRound_get (c : Cfg) (b : Bool) (m : Matching) (a : Cand) (i : Fin 5) :
    (m.afterRound c b a).pool[i] = if i = a.tag then bindFinger c m.pool[a.tag] a.contact b else m.pool[i] :=
  pool_get_set ..

/-- The matching loop matches greedily and binds the fingers it matches. It reads and writes a pool of its own, whose unmatched
fingers are those of the pool before the frame (44_tracker.md R240, R242). -/
theorem matchLoop_greedy (c : Cfg) (b : Bool) (pool : Pool) (n : Nat) (m : Matching) (nodup : m.uv.Nodup)
    (enough : m.uc.length ≤ n) (agree : ∀ i ∈ m.uv, m.pool[i] = pool[i]) :
    ∃ ps, GreedyMatching c pool m.uv m.uc ps (matchLoop c b n m).uv (matchLoop c b n m).uc ∧
      ∀ i k, (i, k) ∈ ps → (matchLoop c b n m).pool[i] = bindFinger c pool[i] k b := by
  induction n generalizing m with
  | zero =>
    have noContact : m.uc = [] := List.eq_nil_of_length_eq_zero (Nat.le_zero.1 enough)
    exact ⟨[], .done _ _ fun i k h => by simpa [noContact] using h.contact, nofun⟩
  | succ n ih =>
    cases least : leastCand (candidates c m.pool m.uv m.uc) with
    | none =>
      rw [matchLoop_of_none least]
      rw [candidates_congr m.uc agree] at least
      exact ⟨[], .done _ _ fun i k h => by simpa [leastCand_none least] using h.mem, nofun⟩
    | some a =>
      rw [matchLoop_of_some least]
      rw [candidates_congr m.uc agree] at least
      obtain ⟨finger, contact, -, -⟩ := mem_candidates_iff.1 (leastCand_mem least)
      have nodup' : (m.afterRound c b a).uv.Nodup := nodup.erase _
      have other : ∀ i ∈ (m.afterRound c b a).uv, i ≠ a.tag := fun i hi => (nodup.mem_erase_iff.1 hi).1
      have tagGone : a.tag ∉ (m.afterRound c b a).uv := fun h => other _ h rfl
      have enough' : (m.afterRound c b a).uc.length ≤ n := by
        rw [Matching.afterRound, List.length_erase_of_mem contact]
        omega
      have agree' : ∀ i ∈ (m.afterRound c b a).uv, (m.afterRound c b a).pool[i] = pool[i] := fun i hi => by
        rw [m.afterRound_get, if_neg (other i hi)]
        exact agree i (List.mem_of_mem_erase hi)
      obtain ⟨ps, rest, binds⟩ := ih _ nodup' enough' agree'
      refine ⟨(a.tag, a.contact) :: ps, .pair_leastCand least rest, fun i k h => ?_⟩
      rcases List.mem_cons.1 h with first | later
      · cases first
        rw [(matchLoop_matched c b n _ nodup').outside _ tagGone, m.afterRound_get, if_pos rfl, agree _ finger]
      · exact binds i k later

/-! ### The pool after ageing -/

section Aged

variable {c : Cfg} {b : Bool} {pool : Pool} {C : List Contact} {m : Matching}
  (M : MatchedFrom c b ⟨pool, touchingTags pool, C⟩ m)
include M

/-- A finger that stays unmatched ages from what it was before the frame (44_tracker.md R248). -/
theorem MatchedFrom.aged_unmatched {i : Fin 5} (h : i ∈ m.uv) : (agePool c m.uv m.pool)[i] = ageFinger c pool[i] := by
  rw [agePool_get c m.uv M.nodup, if_pos h, M.unmatched i h]

/-- A free finger is neither matched nor aged. -/
theorem MatchedFrom.aged_free {i : Fin 5} (h : pool[i].state = .free) : (agePool c m.uv m.pool)[i] = pool[i] := by
  have notTouching : i ∉ touchingTags pool := fun ht => absurd (h.symm.trans (mem_touchingTags.1 ht)) (by decide)
  rw [agePool_get c m.uv M.nodup, if_neg fun hu => notTouching (M.still i hu), M.outside i notTouching]

/-- After ageing a contact may take the fingers that were free before the frame, none released in it (44_tracker.md R246). -/
theorem MatchedFrom.mem_freeTags_aged {i : Fin 5} :
    i ∈ freeTags (agePool c m.uv m.pool) (releasedBy c m.pool m.uv) ↔ pool[i].state = .free := by
  rw [mem_freeTags]
  constructor
  · rintro ⟨free, notReleased⟩
    cases touching : pool[i].state with
    | free => rfl
    | touching =>
      by_cases unmatched : i ∈ m.uv
      · have old : m.pool[i] = pool[i] := M.unmatched i unmatched
        rw [M.aged_unmatched unmatched, ← old] at free
        exact absurd (aged_free_is_released unmatched (by rw [old, touching]) free) notReleased
      · obtain ⟨k, -, bound⟩ := M.matched i (mem_touchingTags.2 touching) unmatched
        rw [agePool_get c m.uv M.nodup, if_neg unmatched, bound, bindFinger_state] at free
        exact absurd (touching.symm.trans free) (by decide)
  · intro free
    refine ⟨by rw [M.aged_free free, free], fun released => ?_⟩
    have touching := mem_touchingTags.1 (M.still i (mem_releasedBy.1 released).1)
    exact absurd (free.symm.trans touching) (by decide)

/-- The tags step 2 hands out are the free tags of the pool before the frame, in the same order (44_tracker.md R246). -/
theorem MatchedFrom.freeTags_aged :
    freeTags (agePool c m.uv m.pool) (releasedBy c m.pool m.uv) = tagsIn pool .free := by
  refine List.filter_congr fun i hi => Bool.eq_iff_iff.2 ?_
  simpa [freeTags, hi] using M.mem_freeTags_aged (i := i)

end Aged

/-! ### The three steps of TRACK -/

/-- The three steps of TRACK on a pool, `r` being the new pool and whether a contact was dropped: the pairs `ps` are matched and
bound, the fingers `uv` age, the contacts `uc`, in slot order `us`, are allocated (44_tracker.md R240). -/
structure TracksBy (c : Cfg) (C : List Contact) (b : Bool) (pool : Pool) (r : Pool × Bool) (ps : List (Fin 5 × Contact))
    (uv : List (Fin 5)) (uc us : List Contact) : Prop where
  matching : GreedyMatching c pool (tagsIn pool .touching) C ps uv uc
  binds : ∀ i k, (i, k) ∈ ps → Binds c k b pool[i].fx pool[i].fy r.1[i]
  ages : ∀ i ∈ uv, Ages c pool[i] r.1[i]
  perm : us.Perm uc
  sorted : us.Pairwise fun k h => k.slot ≤ h.slot
  allocates : AllocatesInOrder c b us pool r.1 r.2

/-- A tag is among those in a state if its finger is in that state. -/
theorem mem_tagsIn {pool : Pool} {st : FingerState} {i : Fin 5} : i ∈ tagsIn pool st ↔ pool[i].state = st := by
  have all : i ∈ ([0, 1, 2, 3, 4] : List (Fin 5)) := by revert i; decide
  simp only [tagsIn, List.mem_filter, all, true_and, decide_eq_true_eq]

/-- The allocation loop after ageing does step 2 on the pool before the frame. -/
theorem MatchedFrom.allocatesInOrder {c : Cfg} {b : Bool} {pool : Pool} {C : List Contact} {m : Matching}
    (M : MatchedFrom c b ⟨pool, touchingTags pool, C⟩ m) (us : List Contact) {r : Pool × Bool}
    (hr : allocLoop c b (releasedBy c m.pool m.uv) us (agePool c m.uv m.pool, false) = r) :
    AllocatesInOrder c b us pool r.1 r.2 := by
  obtain ⟨takes, stays, -, cap⟩ :=
    allocLoop_inOrder c b (releasedBy c m.pool m.uv) us (agePool c m.uv m.pool) false
  rw [M.freeTags_aged, hr] at takes stays cap
  have aged {n : Nat} {i : Fin 5} (hi : (tagsIn pool .free)[n]? = some i) : (agePool c m.uv m.pool)[i] = pool[i] :=
    M.aged_free (mem_tagsIn.1 (List.mem_of_getElem? hi))
  refine ⟨fun n k i hk hi => ?_, fun n i hn hi => ?_, by simpa using cap⟩
  · rw [takes n k i hk hi, aged hi]
    exact allocFinger_allocates c pool[i] k b
  · rw [stays n i hn hi, aged hi]

/-- TRACK matches, ages and allocates. -/
theorem trackPool_steps (c : Cfg) (C : List Contact) (b : Bool) (pool : Pool) :
    ∃ ps uv uc us, TracksBy c C b pool (trackPool c C b pool) ps uv uc us := by
  have nodup := nodup_touchingTags pool
  have M := matchLoop_matched c b C.length ⟨pool, touchingTags pool, C⟩ nodup
  obtain ⟨ps, matching, bound⟩ :=
    matchLoop_greedy c b pool C.length ⟨pool, touchingTags pool, C⟩ nodup le_rfl fun _ _ => rfl
  rw [trackPool]
  generalize matchLoop c b C.length ⟨pool, touchingTags pool, C⟩ = m at M matching bound ⊢
  have touchingFinal {i : Fin 5} (ht : pool[i].state = .touching) :
      (allocLoop c b (releasedBy c m.pool m.uv) (sortBySlot m.uc) (agePool c m.uv m.pool, false)).1[i] =
        (agePool c m.uv m.pool)[i] :=
    (allocLoop_inOrder ..).2.2.1 i fun hf => absurd (ht.symm.trans (M.mem_freeTags_aged.1 hf)) (by decide)
  refine ⟨ps, m.uv, m.uc, sortBySlot m.uc, matching, fun i k h => ?_, fun i h => ?_, sortBySlot_perm _,
    sortBySlot_sorted _, M.allocatesInOrder _ rfl⟩
  · obtain ⟨finger, gone⟩ := matching.finger_of_pair nodup h
    have touching := mem_touchingTags.1 finger
    rw [touchingFinal touching, agePool_get c m.uv M.nodup, if_neg gone, bound i k h]
    exact bindFinger_binds c touching k b
  · rw [touchingFinal (mem_touchingTags.1 (M.still i h)), M.aged_unmatched h]
    exact ageFinger_ages c pool[i]

/-! ### What becomes of a finger or a contact -/

/-- Every finger of the pool is Touching or free. -/
theorem length_tagsIn (pool : Pool) : (tagsIn pool .touching).length + (tagsIn pool .free).length = 5 := by
  have notTouching (v : VFinger) : decide (v.state = .free) = !decide (v.state = .touching) := by
    cases h : v.state <;> simp
  simp only [tagsIn, notTouching]
  exact (List.length_eq_length_filter_add (l := ([0, 1, 2, 3, 4] : List (Fin 5))) _).symm

section TracksBy

variable {c : Cfg} {C : List Contact} {b : Bool} {pool : Pool} {r : Pool × Bool} {ps : List (Fin 5 × Contact)}
  {uv : List (Fin 5)} {uc us : List Contact} (T : TracksBy c C b pool r ps uv uc us)
include T

/-- A contact to allocate is one of the contacts. -/
theorem TracksBy.contact_of_us {k : Contact} (h : k ∈ us) : k ∈ C :=
  T.matching.contacts_perm.mem_iff.2 (List.mem_append_right _ (T.perm.mem_iff.1 h))

/-- A Touching finger is bound to a contact or ages (44_tracker.md R245, R248). -/
theorem TracksBy.touching_finger {i : Fin 5} (h : pool[i].state = .touching) :
    (∃ k ∈ C, Binds c k b pool[i].fx pool[i].fy r.1[i]) ∨ Ages c pool[i] r.1[i] := by
  rcases T.matching.finger_cases (mem_tagsIn.2 h) with ⟨k, pair⟩ | unmatched
  · exact .inl ⟨k, T.matching.contact_of_pair pair, T.binds i k pair⟩
  · exact .inr (T.ages i unmatched)

/-- A free finger stays or takes a contact, by its place among the free tags (44_tracker.md R246). -/
theorem TracksBy.free_finger {i : Fin 5} (h : pool[i].state = .free) :
    r.1[i] = pool[i] ∨ ∃ k ∈ C, Allocates c k b pool[i] r.1[i] := by
  obtain ⟨n, hn⟩ := List.mem_iff_getElem?.1 (mem_tagsIn.2 h)
  by_cases hlt : n < us.length
  · exact .inr ⟨us[n], T.contact_of_us (List.getElem_mem hlt), T.allocates.takes n _ i (List.getElem?_eq_getElem hlt) hn⟩
  · exact .inl (T.allocates.stays n i (Nat.le_of_not_lt hlt) hn)

/-- With MATCH_MAX_DIST unbounded, at most MAX_TOUCHES contacts leave no more to allocate than tags are free: either all are
matched, or every Touching finger is (44_tracker.md R247). -/
theorem TracksBy.enough_tags (unbounded : c.matchMaxDist = none) (five : C.length ≤ 5) :
    us.length ≤ (tagsIn pool .free).length := by
  have fingers := T.matching.fingers_perm.length_eq
  have contacts := T.matching.contacts_perm.length_eq
  have left := T.perm.length_eq
  have pools := length_tagsIn pool
  simp only [List.length_append, List.length_map] at fingers contacts
  rcases T.matching.exhausts unbounded with noFinger | noContact
  · rw [noFinger, List.length_nil] at fingers
    omega
  · rw [noContact, List.length_nil] at left
    omega

/-- With tags enough every contact is bound to a finger or allocated one (44_tracker.md R245, R246). -/
theorem TracksBy.contact_served (enough : us.length ≤ (tagsIn pool .free).length) {k : Contact} (h : k ∈ C) :
    ∃ i : Fin 5, (pool[i].state = .touching ∧ Binds c k b pool[i].fx pool[i].fy r.1[i]) ∨
      (pool[i].state = .free ∧ Allocates c k b pool[i] r.1[i]) := by
  rcases T.matching.contact_cases h with ⟨i, pair⟩ | unmatched
  · have finger := (T.matching.finger_of_pair (nodup_touchingTags pool) pair).1
    exact ⟨i, .inl ⟨mem_tagsIn.1 finger, T.binds i k pair⟩⟩
  · obtain ⟨n, hn, rfl⟩ := List.mem_iff_getElem.1 (T.perm.mem_iff.2 unmatched)
    have tag : n < (tagsIn pool .free).length := Nat.lt_of_lt_of_le hn enough
    exact ⟨(tagsIn pool .free)[n], .inr ⟨mem_tagsIn.1 (List.getElem_mem tag),
      T.allocates.takes n _ _ (List.getElem?_eq_getElem hn) (List.getElem?_eq_getElem tag)⟩⟩

end TracksBy

/-! ### The obligations -/

/-- Settles O45: `track` writes these two elements. -/
theorem trackStepsThePool : Obligations.TrackStepsThePool := fun s => ⟨track s.opnd.contacts s.opnd.button s, rfl, rfl⟩

/-- Settles O46: a Touching finger is matched or ages, a free one takes the contact at its place or none. -/
theorem fateOfEachFinger : Obligations.FateOfEachFinger := by
  intro c C b pool i
  obtain ⟨ps, uv, uc, us, T⟩ := trackPool_steps c C b pool
  exact ⟨T.touching_finger, T.free_finger⟩

/-- Settles O47: TRACK's steps are the second part, and the first part follows from them by counting fingers and contacts. -/
theorem everyContactFindsAFinger : Obligations.EveryContactFindsAFinger := by
  intro c C b pool
  obtain ⟨ps, uv, uc, us, T⟩ := trackPool_steps c C b pool
  refine ⟨fun unbounded five => ?_, ps, uv, uc, us, T.matching, T.perm, T.sorted, T.allocates⟩
  have enough := T.enough_tags unbounded five
  have noneDropped := mt T.allocates.dropped.1 (Nat.not_lt.2 enough)
  exact ⟨Bool.eq_false_iff.2 noneDropped, fun k hk => T.contact_served enough hk⟩

/-- Settles O48: the least candidate, the candidates, and the steps of TRACK that match, bind and age. -/
theorem matchingTakesTheLeastPair : Obligations.MatchingTakesTheLeastPair := by
  refine ⟨fun cs a h => ⟨leastCand_mem h, leastCand_upTo h⟩, fun c pool uv uc a => mem_candidates_iff, fun c C b pool => ?_⟩
  obtain ⟨ps, uv, uc, us, T⟩ := trackPool_steps c C b pool
  exact ⟨ps, uv, uc, T.matching, T.binds, T.ages⟩

end Sys2Proof.Machine

/-!
PROOF. The numeric filters (45_filters.md). The moving average keeps its samples in a ring; `MaState.window` reads the ring from
the oldest sample to the newest. The mean and OLDEST are functions of that list (`maMean_eq`, `maOldestOf_eq`), a sample
appends to it and keeps the last n (`window_push`), and NEWEST is the sample pushed last (`maNewestOf_push`).
-/

namespace Sys2Proof.Machine

/-! ### The last entries of a list -/

/-- A list of at most n entries is its own last n. -/
theorem rtake_eq_self {l : List Int} {n : Nat} (h : l.length ≤ n) : l.rtake n = l := by
  rw [List.rtake, Nat.sub_eq_zero_of_le h, List.drop_zero]

/-- Cutting to the last n before appending loses nothing of the last n. -/
theorem rtake_append_of_rtake (n : Nat) (l k : List Int) : (l.rtake n ++ k).rtake n = (l ++ k).rtake n := by
  have cut : l.rtake n ++ k = (l ++ k).drop (l.length - n) := (List.drop_append_of_le_length (Nat.sub_le ..)).symm
  rw [cut, List.rtake, List.rtake, List.drop_drop, List.length_drop, List.length_append]
  congr 1
  omega

/-- The first i entries and one appended are i + 1. -/
theorem length_take_concat {l : List Int} {i : Nat} (h : i < l.length) (x : Int) : (l.take i ++ [x]).length = i + 1 := by
  rw [List.length_append, List.length_take, Nat.min_eq_left h.le, List.length_singleton]

/-- A rotation index that wraps to 0 at the list's length is the successor. -/
theorem rotate_wrapped {l : List Int} {i n : Nat} (h : i + 1 = n → l.length = n) :
    l.rotate (if i + 1 = n then 0 else i + 1) = l.rotate (i + 1) := by
  split
  · next wraps => rw [wraps, ← h wraps, List.rotate_length, List.rotate_zero]
  · rfl

/-! ### The samples a moving average holds -/

/-- The samples in the buffer from the oldest to the newest (45_filters.md R272, R273). While the window fills, `index` is
their number and the rotation is the whole circle. -/
def MaState.window (m : MaState) : List Int := (m.buf.take m.count).rotate m.index

section Window

variable {n : Nat} {m : MaState} (h : m.Consistent n)
include h

/-- The window has `count` samples. -/
theorem MaState.Consistent.length_window : m.window.length = m.count := by
  rw [MaState.window, List.length_rotate, List.length_take, h.size, Nat.min_eq_left h.count_le]

/-- While it fills, the samples stand in order. -/
theorem MaState.Consistent.window_filling (hc : m.count < n) : m.window = m.buf.take m.count := by
  have len : (m.buf.take m.count).length = m.index := by
    rw [List.length_take, h.size, h.filling hc, Nat.min_eq_left h.count_le]
  rw [MaState.window, ← len, List.rotate_length]

/-- Once it is full, the oldest sample is the one at `index`. -/
theorem MaState.Consistent.window_full (hc : m.count = n) : m.window = m.buf.drop m.index ++ m.buf.take m.index := by
  have all : m.buf.take m.count = m.buf := List.take_of_length_le (by rw [h.size, hc])
  rw [MaState.window, all, List.rotate_eq_drop_append_take (by rw [h.size]; exact h.index_lt.le)]

/-- `sum` is the sum of the window, so the mean is the window's (45_filters.md R270). -/
theorem MaState.Consistent.maMean_eq : maMean m = m.window.sum.tdiv m.window.length := by
  have sum : m.window.sum = m.sum := by rw [h.total, MaState.window, (List.rotate_perm ..).sum_eq]
  rw [maMean, sum, h.length_window]

/-- OLDEST is the head of the window (45_filters.md R272). -/
theorem MaState.Consistent.maOldestOf_eq : maOldestOf n m = m.window.headD 0 := by
  rcases h.count_le.lt_or_eq with hc | hc
  · rw [h.window_filling hc, maOldestOf]
    by_cases empty : m.count = 0
    · simp [empty]
    · rw [if_neg empty, if_pos hc, List.headD_eq_head?_getD, List.head?_take, if_neg empty, List.head?_eq_getElem?,
        List.getD_eq_getElem?_getD]
  · have lt : m.index < m.buf.length := by rw [h.size]; exact h.index_lt
    have count : m.count ≠ 0 := hc ▸ Nat.ne_zero_of_lt h.index_lt
    rw [h.window_full hc, maOldestOf, if_neg count, if_neg hc.not_lt, List.drop_eq_getElem_cons lt, List.cons_append,
      List.headD_cons, List.getD_eq_getElem _ _ lt]

/-- While the window fills, a sample is appended to it (45_filters.md R270). -/
theorem MaState.Consistent.window_push_filling (hc : m.count < n) (x : Int) :
    (maPush n m x).window = m.window ++ [x] := by
  have lt : m.count < m.buf.length := by rw [h.size]; exact hc
  have len := length_take_concat lt x
  have taken : (m.buf.set m.count x).take (m.count + 1) = m.buf.take m.count ++ [x] := by
    rw [List.set_eq_take_append_cons_drop, if_pos lt, List.append_cons, List.take_left' len]
  rw [h.window_filling hc, MaState.window, maPush, if_pos hc, h.filling hc]
  dsimp only
  rw [taken, rotate_wrapped fun wraps => len.trans wraps, ← len, List.rotate_length]

/-- In a full window a sample replaces the oldest, and the next one is then the oldest (45_filters.md R270). -/
theorem MaState.Consistent.window_push_full (hc : m.count = n) (x : Int) :
    (maPush n m x).window = m.window.tail ++ [x] := by
  have lt : m.index < m.buf.length := by rw [h.size]; exact h.index_lt
  have len := length_take_concat lt x
  have size : (m.buf.set m.index x).length = n := by rw [List.length_set, h.size]
  rw [h.window_full hc, MaState.window, maPush, if_neg hc.not_lt]
  dsimp only
  rw [List.take_of_length_le (size.trans hc.symm).le, rotate_wrapped fun _ => size, List.set_eq_take_append_cons_drop, if_pos lt,
    List.append_cons, ← len, List.rotate_append_length_eq, len, List.drop_eq_getElem_cons lt, List.cons_append,
    List.tail_cons, List.append_assoc]

/-- A sample is appended to the window, and the last n stay (45_filters.md R270). -/
theorem MaState.Consistent.window_push (x : Int) : (maPush n m x).window = (m.window ++ [x]).rtake n := by
  have len : (m.window ++ [x]).length = m.count + 1 := by rw [List.length_append, h.length_window, List.length_singleton]
  rcases h.count_le.lt_or_eq with hc | hc
  · rw [h.window_push_filling hc, rtake_eq_self (len.trans_le hc)]
  · have ne : m.window ≠ [] := List.ne_nil_of_length_pos (by rw [h.length_window, hc]; exact Nat.zero_lt_of_lt h.index_lt)
    rw [h.window_push_full hc, List.rtake, len, hc, Nat.add_sub_cancel_left, List.drop_one, List.tail_append_of_ne_nil ne]

end Window

/-- NEWEST is the sample pushed last (45_filters.md R273). -/
theorem MaState.Consistent.maNewestOf_push {n : Nat} {m : MaState} (h : m.Consistent n) (x : Int) :
    maNewestOf (maPush n m x) = x := by
  have pos := h.index_lt
  have filling := h.filling
  have read : (m.buf.set m.index x).getD m.index 0 = x := by simp [h.size, pos]
  have count : (maPush n m x).count ≠ 0 := by simp only [maPush]; split <;> omega
  rw [maNewestOf, if_neg count]
  by_cases wrap : m.index + 1 = n
  · have last : (if m.count < n then m.count + 1 else m.count) - 1 = m.index := by
      have := h.count_le
      split <;> omega
    simp only [maPush, wrap, if_true, last, read]
  · simp only [maPush, wrap, if_false, Nat.succ_ne_zero, Nat.add_sub_cancel, read]

/-- Fed any samples, a moving average holds the last n of all it was given. -/
theorem MaState.Consistent.window_foldl {n : Nat} {m : MaState} (h : m.Consistent n) (xs : List Int) :
    (xs.foldl (maPush n) m).Consistent n ∧ (xs.foldl (maPush n) m).window = (m.window ++ xs).rtake n := by
  induction xs generalizing m with
  | nil =>
    refine ⟨h, ?_⟩
    rw [List.append_nil, rtake_eq_self (h.length_window.trans_le h.count_le), List.foldl_nil]
  | cons x xs ih =>
    obtain ⟨cons, window⟩ := ih (h.push x)
    refine ⟨cons, ?_⟩
    rw [List.foldl_cons, window, h.window_push, rtake_append_of_rtake, List.append_assoc, List.singleton_append]

/-! ### DECAY and UNDECAY -/

/-- Of nonnegative terms one that is a multiple of the divisor comes out of a truncating division whole. -/
theorem tdiv_add_sub_tdiv {a b n : Int} (ha : 0 ≤ a) (hb : 0 ≤ b) (hn : 1 ≤ n) : (a * n + b).tdiv n - b.tdiv n = a := by
  have sum : 0 ≤ a * n + b := Int.add_nonneg (Int.mul_nonneg ha (Int.le_trans Int.one_nonneg hn)) hb
  rw [Int.tdiv_eq_ediv_of_nonneg sum, Int.tdiv_eq_ediv_of_nonneg hb, Int.add_comm, Int.add_mul_ediv_right _ _ (by omega),
    add_sub_cancel_left]

/-- Two exact quotients of DECAY's formula add up over the common divisor (45_filters.md R280). -/
theorem add_tdiv_mul_cancel {a b d : Int} (ha : d ∣ a) (hb : d ∣ b) : (a.tdiv d + b.tdiv d) * d = a + b := by
  rw [Int.add_mul, Int.tdiv_mul_cancel ha, Int.tdiv_mul_cancel hb]

/-! ### The filter operations -/

/-- MA.FILTER's new state in the terms of the rule: the sum loses the overwritten sample when the window is full
(45_filters.md R270). -/
theorem maPush_eq (n : Nat) (m : MaState) (x : Int) :
    maPush n m x =
      ⟨m.buf.set m.index x, if m.count < n then m.count + 1 else m.count,
        m.sum + x - (if m.count = n then m.buf.getD m.index 0 else 0), if m.index + 1 = n then 0 else m.index + 1⟩ := by
  rw [maPush]
  congr 1
  split
  · rfl
  · rw [Int.sub_zero]

/-- An operation that writes an instance and returns a value writes that instance, the value, and nothing else
(45_filters.md R278). -/
theorem filterOperation_writes (s : State) (i : Inst) (f : Filter) (v : Int) :
    ∃ t, (.next (returnValue v (setInst s i f)) : Out) = .next t ∧ KeepsAllButFilters s t ∧ FilterSet i f s t ∧
      t.ret = { s.ret with value := v } :=
  ⟨_, rfl, (keepsAllButFilters_setInst s i f).returnValue v, (filterSet_setInst s i f).returnValue v,
    by rw [returnValue, setInst_ret]⟩

/-- An operation that writes an instance and returns nothing writes that instance and nothing else (45_filters.md R278). -/
theorem filterReset_writes (s : State) (i : Inst) (f : Filter) :
    ∃ t, (.next (setInst s i f) : Out) = .next t ∧ KeepsAllButFilters s t ∧ FilterSet i f s t ∧ t.ret = s.ret :=
  ⟨_, rfl, keepsAllButFilters_setInst s i f, filterSet_setInst s i f, setInst_ret ..⟩

/-! ### The obligations -/

/-- Settles O52: the window after the samples is their last n, and the last one pushed stands at its end. -/
theorem movingAverageIsTheMeanOfTheWindow : Obligations.MovingAverageIsTheMeanOfTheWindow := by
  intro n m xs pos size nonempty
  have start : (⟨m.buf, 0, 0, 0⟩ : MaState).Consistent n :=
    { size, count_le := Nat.zero_le n, index_lt := pos, filling := fun _ => rfl, total := rfl }
  obtain ⟨cons, window⟩ := start.window_foldl xs
  have held : (xs.foldl (maPush n) ⟨m.buf, 0, 0, 0⟩).window = xs.drop (xs.length - n) := window
  refine ⟨held ▸ cons.maMean_eq, held ▸ cons.maOldestOf_eq, ?_⟩
  obtain ⟨ys, y, rfl⟩ := (List.eq_nil_or_concat' xs).resolve_left nonempty
  have newest : maNewestOf ((ys ++ [y]).foldl (maPush n) ⟨m.buf, 0, 0, 0⟩) = y := by
    rw [List.foldl_concat, (start.window_foldl ys).1.maNewestOf_push]
  have cut : (ys ++ [y]).length - n ≤ ys.length := by rw [List.length_append, List.length_singleton]; omega
  rw [newest, List.drop_append_of_le_length cut, List.getLastD_concat]

/-- Settles O53: with exact quotients DECAY's output times D is x·N1 + y·N2, and dividing by N1 takes the sum apart. -/
theorem undecayInvertsDecay : Obligations.UndecayInvertsDecay := by
  intro n1 n2 d x y i j hn1 hn2 hd
  refine ⟨fun hi hj => ?_, ?_⟩
  · simp only [undecayValue, decayValue, hi, hj, Bool.false_eq_true, if_false]
  · rintro rfl rfl hy hx dvdX dvdY
    simp only [undecayValue, decayValue, if_true]
    rw [add_tdiv_mul_cancel dvdX dvdY, tdiv_add_sub_tdiv hx (Int.mul_nonneg hy hn2) hn1]

/-- Settles O49: FILTER and RESET write the instance, OLDEST and NEWEST only return. -/
theorem movingAverageOperations : Obligations.MovingAverageOperations := by
  intro s
  let f := getInst s s.opnd.inst
  let m := maPush s.cfg.maWindow f.ma s.opnd.sample
  obtain ⟨t, run, keeps, set, value⟩ := filterOperation_writes s s.opnd.inst { f with ma := m } (maMean m)
  have rule : m = _ := maPush_eq ..
  rw [rule] at set value
  exact ⟨⟨t, run, keeps, set, value⟩, filterReset_writes s _ _, rfl, rfl⟩

/-- Settles O50: FILTER and RESET write the instance. -/
theorem decayOperations : Obligations.DecayOperations :=
  fun s => ⟨filterOperation_writes s _ _ _, filterReset_writes s _ _⟩

/-- Settles O51: FILTER and RESET write the instance. -/
theorem undecayOperations : Obligations.UndecayOperations :=
  fun s => ⟨filterOperation_writes s _ _ _, filterReset_writes s _ _⟩

end Sys2Proof.Machine

/-!
PROOF. The typed errors that end a transaction before its decode and the safety of the host's transactions (60_exceptions.md). A
packet is rejected while it is fetched, so nothing but the fresh fields and the status is written. Safety has two halves: whatever
the checks of 40_dispatch.md R95 make of a host transaction, its step answers a next state (`step_of_host`), and a step only takes
the oldest transaction off the port (`step_inbox`).
-/

namespace Sys2Proof.Machine

/-! ### Between transactions -/

/-- Settles O12: with nothing to fetch the step ends in the state it began in. -/
theorem nothingHappensBetweenTransactions : Obligations.NothingHappensBetweenTransactions := by
  intro s empty
  have idle : fetch s = .ended s := by simp only [fetch, empty]
  exact step_ended idle

/-! ### Packets rejected before their decode -/

/-- A packet to an instance that is not Ready is rejected (40_dispatch.md R95 step 2). -/
theorem fetchPkt_notReady {p : List Byte} {s : State} (h : s.devState ≠ .ready) :
    fetchPkt p s = .ended (raiseError .unsupportedSignature (freshFields s)) := by
  simp only [fetchPkt, if_pos h]

/-- A packet of the wrong length, or with the wrong first byte, is rejected (40_dispatch.md R95 steps 3 and 4). -/
theorem fetchPkt_resync {p : List Byte} {s : State} (hready : s.devState = .ready)
    (h : p.length ≠ s.cfg.pktLen.get s.desc.fam ∨ byteAt p 0 &&& s.desc.mask0 ≠ s.desc.byte0) :
    fetchPkt p s = .ended (raiseError .resync (freshFields s)) := by
  unfold fetchPkt
  rw [if_neg (not_not_intro hready)]
  split
  · rfl
  · next hlen => rw [if_pos (h.resolve_left hlen)]

/-- Settles O7: the packet is rejected on fresh fields before its length is looked at. -/
theorem packetBeforeIdentification : Obligations.PacketBeforeIdentification := by
  intro s p ts hv hin hstate
  have notReady : s.devState ≠ .ready := by rcases hstate with h | h <;> rw [h] <;> decide
  exact step_ended ((fetch_of_valid hv hin).trans (fetchPkt_notReady notReady))

/-- Settles O8: the packet is rejected on fresh fields before it is classified. -/
theorem resyncChangesNothing : Obligations.ResyncChangesNothing := fun _ _ _ hv hin hready hbad =>
  step_ended ((fetch_of_valid hv hin).trans (fetchPkt_resync hready hbad))

/-! ### Identification that fails -/

/-- IDENT of a signature without an entry (40_dispatch.md R90, 60_exceptions.md R291). -/
theorem execIdent_of_lookup_none {s : State} (h : lookup s.opnd.e7 s.cfg.registry = none) :
    execIdent s = .next (raiseUnsupported { resetAll s with devState := .failed }) := by
  simp only [execIdent, h]

/-- Settles O15: lookup finds no entry, and the device state and the status, all that IDENT then writes over RESET_ALL, are no
part of R320's list. -/
theorem identOfUnknownSignatureFails : Obligations.IdentOfUnknownSignatureFails := by
  intro s unknown
  have notFound : lookup s.opnd.e7 s.cfg.registry = none := (lookup_eq_none_iff _ _).mpr unknown
  exact ⟨_, execIdent_of_lookup_none notFound, (resetAll_allReset s).of_identified s.desc ⟨0, 0, 0⟩ .failed _,
    rfl, rfl, rfl, rfl, rfl⟩

/-! ### What a step does to the port -/

/-- Fetching a packet does not look at the port. -/
theorem fetchPkt_inbox (p : List Byte) (s : State) : (fetchPkt p s).state.inbox = s.inbox := by
  unfold fetchPkt
  dsimp only
  -- R95 steps 2 to 5 in order: the device state, the length, the first byte, V9.
  split
  · rfl
  · split
    · rfl
    · split
      · rfl
      · split <;> rfl

/-- Fetching takes the oldest transaction off the port, whatever becomes of it. -/
theorem fetch_inbox (s : State) : (fetch s).state.inbox = s.inbox.tail := by
  unfold fetch
  split
  · next empty => simp [Fetched.state, empty]
  · next x ts hin =>
    rw [hin]
    split
    · cases x with
      | ident e7 ec => rfl
      | pkt p => exact fetchPkt_inbox p _
      | reset => rfl
      | seq w o => rfl
    · rfl

/-- IDENT leaves the port, whether the signature is known, unknown or of a reserved family. -/
theorem execIdent_inbox {s t : State} (h : execIdent s = .next t) : t.inbox = s.inbox := by
  unfold execIdent at h
  dsimp only at h
  split at h
  · cases h; rfl
  · split at h <;> cases h <;> rfl

/-- The operations other than the two resets leave the port. -/
theorem Effect.inbox {s t : State} {i : Instr} (h : Effect s i t) : t.inbox = s.inbox := by
  cases h with
  | packet fam cls r _ => simp
  | refusal => rfl
  | bitmap xm ym n r => rfl
  | track ks b => rfl
  | filter _ j f h => exact h.keeps.inbox

/-- No operation writes the port. -/
theorem exec_inbox {i : Instr} {s t : State} (h : exec i s = .next t) : t.inbox = s.inbox := by
  by_cases hi : i = .ident
  · subst hi; exact execIdent_inbox h
  · by_cases hr : i = .reset
    · subst hr; cases h; rfl
    · exact (exec_effect h hi hr).inbox

/-- A step takes the oldest transaction off the port and does nothing else to it. -/
theorem step_inbox {s t : State} (h : step s = .next t) : t.inbox = s.inbox.tail := by
  rw [← fetch_inbox]
  rcases step_cases h with hf | ⟨w, u, hf, ⟨i, v, -, he, rfl⟩ | ⟨r, -, rfl⟩⟩
  · rw [hf]; rfl
  · have kept : v.inbox = u.inbox := exec_inbox he
    rw [hf]; exact kept
  · rw [hf]; rfl

/-! ### The host's transactions never stop -/

/-- A packet ends in a next state whichever check of R95 it fails first, and also if it passes them all. -/
theorem step_of_packet {s : State} {p : List Byte} {ts : List Txn} (hv : s.cfg.valid = true) (hin : s.inbox = .pkt p :: ts) :
    ∃ t, step s = .next t := by
  by_cases hready : s.devState = .ready
  · by_cases hlen : p.length = s.cfg.pktLen.get s.desc.fam
    · by_cases hbyte : byteAt p 0 &&& s.desc.mask0 = s.desc.byte0
      · by_cases hfam : s.desc.fam = .v9
        · exact ⟨_, v9IsRefused.2 s p ts hv hin hready hlen hbyte hfam⟩
        · obtain ⟨-, -, u, -, -, -, hstep⟩ := packetRunsItsOperation s p ts hv hin hready hlen hbyte hfam
          exact ⟨_, hstep⟩
      · exact ⟨_, resyncChangesNothing s p ts hv hin hready (.inr hbyte)⟩
    · exact ⟨_, resyncChangesNothing s p ts hv hin hready (.inl hlen)⟩
  · exact ⟨_, step_ended ((fetch_of_valid hv hin).trans (fetchPkt_notReady hready))⟩

/-- A transaction of the host at the head of the port ends in a next state, under a valid configuration or not. -/
theorem step_of_host {s : State} {x : Txn} {ts : List Txn} (hin : s.inbox = x :: ts) (host : x.fromHost = true) :
    ∃ t, step s = .next t := by
  by_cases hv : s.cfg.valid = true
  · obtain ⟨ident, reset, -⟩ := stepRunsTheDecodedOperation.2 s ts hv
    cases x with
    | ident e7 ec => obtain ⟨u, -, hstep⟩ := ident e7 ec hin; exact ⟨_, hstep⟩
    | pkt p => exact step_of_packet hv hin
    | reset => obtain ⟨u, -, hstep⟩ := reset hin; exact ⟨_, hstep⟩
    | seq w o => cases host
  · exact ⟨_, step_ended (fetch_of_invalid hin hv)⟩

/-- A port that holds only the host's transactions still does after a step. -/
theorem step_hostOnly {s t : State} (hs : s.hostOnly = true) (h : step s = .next t) : t.hostOnly = true := by
  rw [State.hostOnly, List.all_eq_true] at hs ⊢
  rw [step_inbox h]
  exact fun x hx => hs x (List.mem_of_mem_tail hx)

/-- Settles O20: on an empty port the step holds the state, a host transaction at its head ends in a next state, and what a step
leaves on the port was on it before. -/
theorem hostTransactionsNeverStop : Obligations.HostTransactionsNeverStop := by
  intro s hs
  have next : ∃ t, step s = .next t := by
    cases hin : s.inbox with
    | nil => exact ⟨s, nothingHappensBetweenTransactions s hin⟩
    | cons x ts =>
      rw [State.hostOnly, hin, List.all_cons, Bool.and_eq_true] at hs
      exact step_of_host hin hs.1
  obtain ⟨t, hstep⟩ := next
  exact ⟨t, hstep, step_hostOnly hs hstep⟩

end Sys2Proof.Machine

/-!
PROOF. RESET and what no step takes back (70_reset_and_hazards.md R320, R325; 10_state.md R41). RESET is RESET_ALL with the silent
status. That the configuration stands and the refusal bit stays set (`KeepsStatic`) is said of each part of a step: taking the
transaction (`fetch_keepsStatic`), its operation (`exec_keepsStatic`), its refusal and its retiring; a step composes them.
-/

namespace Sys2Proof.Machine

/-! ### RESET -/

/-- Settles O16: the silent status, all that RESET writes over RESET_ALL, is no part of R320's list. -/
theorem resetClearsTheBlock : Obligations.ResetClearsTheBlock := fun s =>
  ⟨{ resetAll s with status := Status.silent }, rfl, (resetAll_allReset s).of_identified s.desc ⟨0, 0, 0⟩ .unidentified _,
    rfl, rfl, rfl, rfl, rfl⟩

/-! ### The configuration and the refusal bit -/

/-- The configuration stands (70_reset_and_hazards.md R325) and the refusal bit is not cleared (10_state.md R41). -/
structure KeepsStatic (s t : State) : Prop where
  cfg : t.cfg = s.cfg
  refused : s.refused = true → t.refused = true

/-- What two changes keep one after the other, both keep together. -/
theorem KeepsStatic.trans {s t u : State} (h : KeepsStatic s t) (k : KeepsStatic t u) : KeepsStatic s u :=
  ⟨k.cfg.trans h.cfg, k.refused ∘ h.refused⟩

/-- Retiring drops the operands alone (60_exceptions.md R295). -/
theorem keepsStatic_retired (s : State) : KeepsStatic s { s with opnd := Operands.none } := ⟨rfl, id⟩

/-- A refusal sets the refusal bit (00_scope.md R19). -/
theorem keepsStatic_refuse (s : State) : KeepsStatic s (refuse s) := ⟨refuse_cfg s, fun _ => refuse_refused s⟩

/-- Taking a packet leaves the refusal bit: the packets it ends are rejected with a typed error, not refused (40_dispatch.md
R95). -/
theorem fetchPkt_refused (p : List Byte) (s : State) : (fetchPkt p s).state.refused = s.refused := by
  unfold fetchPkt
  dsimp only
  -- R95 steps 2 to 5 in order: the device state, the length, the first byte, V9.
  split
  · rfl
  · split
    · rfl
    · split
      · rfl
      · split <;> rfl

/-- Taking a transaction does not clear the refusal bit; under an invalid configuration it sets it. -/
theorem fetch_refused {s : State} (h : s.refused = true) : (fetch s).state.refused = true := by
  unfold fetch
  split
  · exact h
  · next x ts _ =>
    split
    · cases x with
      | ident e7 ec => exact h
      | pkt p => exact (fetchPkt_refused p _).trans h
      | reset => exact h
      | seq w o => exact h
    · exact refuse_refused _

/-- Taking a transaction. -/
theorem fetch_keepsStatic (s : State) : KeepsStatic s (fetch s).state := ⟨(fetch_standsStill s).cfg, fetch_refused⟩

/-- IDENT leaves the refusal bit, unless the signature's entry is of a reserved family: then it sets it (40_dispatch.md R90). -/
theorem execIdent_keepsStatic {s t : State} (h : execIdent s = .next t) : KeepsStatic s t := by
  refine ⟨(execIdent_effect h).cfg, fun hs => ?_⟩
  unfold execIdent at h
  dsimp only at h
  split at h
  · cases h; exact hs
  · split at h <;> cases h
    · exact refuse_refused _
    · exact hs

/-- The operations other than the two resets: only DEC.V9 writes the refusal bit, and it sets it (41_decoders_v1_v6.md R178). -/
theorem Effect.keepsStatic {s t : State} {i : Instr} (h : Effect s i t) : KeepsStatic s t := by
  cases h with
  | packet fam cls r _ => exact ⟨by simp, by simp⟩
  | refusal => exact ⟨rfl, fun _ => refuse_refused _⟩
  | bitmap xm ym n r => exact ⟨rfl, id⟩
  | track ks b => exact ⟨track_cfg ks b s, (track_refused ks b s).trans⟩
  | filter _ j f h => exact ⟨h.keeps.cfg, h.keeps.refused.trans⟩

/-- Every operation. -/
theorem exec_keepsStatic {i : Instr} {s t : State} (h : exec i s = .next t) : KeepsStatic s t := by
  by_cases hi : i = .ident
  · subst hi; exact execIdent_keepsStatic h
  · by_cases hr : i = .reset
    · subst hr; cases h; exact ⟨resetAll_cfg _, id⟩
    · exact (exec_effect h hi hr).keepsStatic

/-- A step takes the transaction, runs its operation or refuses it, and retires it. -/
theorem step_keepsStatic {s t : State} (h : step s = .next t) : KeepsStatic s t := by
  have taken := fetch_keepsStatic s
  rcases step_cases h with hf | ⟨w, u, hf, ⟨i, v, -, he, rfl⟩ | ⟨r, -, rfl⟩⟩
  · rw [hf] at taken
    exact taken
  · rw [hf] at taken
    exact (taken.trans (exec_keepsStatic he)).trans (keepsStatic_retired v)
  · rw [hf] at taken
    exact (taken.trans (keepsStatic_refuse u)).trans (keepsStatic_retired (refuse u))

/-- Settles O21: it is what every part of a step keeps. -/
theorem configurationIsStatic : Obligations.ConfigurationIsStatic := fun _ _ h =>
  ⟨(step_keepsStatic h).cfg, (step_keepsStatic h).refused⟩

end Sys2Proof.Machine
